-- ==== Sys2Proof/Word.lean ====
section
/-! DEFINITION. The engine's words: every register, operand and result is an unsigned 32-bit number (R6), and a
register field of a command is a 4-bit index (R91). -/

namespace Sys2Proof

/-- A `u32`: the width W = 32 is fixed, not a parameter (R6). -/
abbrev Word := BitVec 32

/-- A general-register index `0..15`, the width of the fields RD, RS1, RS2 and RS3 (R90, R91). -/
abbrev RegIdx := BitVec 4

end Sys2Proof
end

