-- ==== Sys2Proof/Config.lean ====
section
/-! DEFINITION. The implementation parameters of R9: the fixed ones as definitions, the OPEN ones (ENGINE_BASE,
HOST_ORDERING, WITNESS) as constants without a body, so that whatever is proved holds for every value of them. -/

namespace Sys2Proof.Config

/-- MAX_MODULUS = 2^32 - 1 (R8): key derivation refuses `p·q` above it. -/
def maxModulus : Nat := 2 ^ 32 - 1

/-- The register window is 256 bytes (R60). -/
def windowBytes : Nat := 256

/-- OPEN (R60): which 256-byte block of the host's address space the window is. -/
opaque engineBlock : Nat

/-- ENGINE_BASE, OPEN, a multiple of 256 (R60). -/
def engineBase : Nat := windowBytes * engineBlock

/-- What the host's interconnect does with the order of the host's accesses (R72). -/
inductive HostOrdering where
  /-- accesses are delivered in program order -/
  | inOrder
  /-- accesses may be delivered in another order -/
  | reordering
  deriving DecidableEq, Repr, Inhabited

/-- HOST_ORDERING, OPEN (R72). -/
opaque hostOrdering : HostOrdering

/-- FREE VALUE (R151, log 4): the random source's k-th output, before it is brought into the range of the draw.
Nothing constrains it; a statement about a command that draws holds for every value of it. -/
opaque witness : Nat → Nat

/-- FREE VALUE (R122, R232; log 14): what a cipher command makes of its operand under a zero modulus, for which the
spec gives `modpow_fn` no value. No key file that meets R25 has one. -/
opaque zeroModulusCipher : Word → Word

end Sys2Proof.Config
end

