-- ==== Sys2Proof/Syntax.lean ====
section
/-! DEFINITION. The twelve commands of MEE-CMD version 1 (R94), one constructor per row of the opcode table, with
the operand fields R95 gives it; a field that R95 marks 0 is not an argument. -/

namespace Sys2Proof

/-- A legal command (R94, R95). Register fields name general registers; `val` and `crt` are the flags of R92. -/
inductive Instr where
  /-- `nop` (R260) -/
  | nop
  /-- `gcd rd, rs1, rs2` (R125) -/
  | gcd (rd rs1 rs2 : RegIdx)
  /-- `mulmod rd, rs1, rs2, rs3` (R126) -/
  | mulmod (rd rs1 rs2 rs3 : RegIdx)
  /-- `modpow rd, rs1, rs2, rs3`: base, exponent, modulus (R127) -/
  | modpow (rd rs1 rs2 rs3 : RegIdx)
  /-- `modinv rd, rs1, rs2` (R172) -/
  | modinv (rd rs1 rs2 : RegIdx)
  /-- `prime rd, rs1` (R152) -/
  | prime (rd rs1 : RegIdx)
  /-- `keygen[.val][.crt] rs1, rs2, rs3`: p, q, e (R194) -/
  | keygen (rs1 rs2 rs3 : RegIdx) (val crt : Bool)
  /-- `keygena[.val][.crt] rs1, rs2`: p, q (R195) -/
  | keygena (rs1 rs2 : RegIdx) (val crt : Bool)
  /-- `encrypt rd, rs1` (R230) -/
  | encrypt (rd rs1 : RegIdx)
  /-- `decrypt rd, rs1` (R231) -/
  | decrypt (rd rs1 : RegIdx)
  /-- `deccrt rd, rs1` (R233) -/
  | deccrt (rd rs1 : RegIdx)
  /-- `clrkey` (R196) -/
  | clrkey
  deriving DecidableEq, Repr

end Sys2Proof
end

