-- ==== Sys2Proof/WellFormed.lean ====
section
/-! DEFINITION. The fields of a CMD32 word (R90) and the checks that make them a legal command: the second, field
by field form of R96 (`w[5:0] <= 0x0B`, reserved bits 0, unused fields 0). A term of `Instr` cannot be ill formed
(its arguments have the widths of the fields), so the checks stand on the raw fields. -/

namespace Sys2Proof

/-- The fields of one command word, format CMD32 (R90), reserved bits included. -/
structure Cmd32 where
  /-- bits 5:0 -/
  opc : BitVec 6
  /-- bits 7:6, reserved -/
  res1 : BitVec 2
  /-- bits 11:8 -/
  rd : RegIdx
  /-- bits 15:12 -/
  rs1 : RegIdx
  /-- bits 19:16 -/
  rs2 : RegIdx
  /-- bits 23:20 -/
  rs3 : RegIdx
  /-- bit 24 -/
  val : Bool
  /-- bit 25 -/
  crt : Bool
  /-- bits 31:26, reserved -/
  res2 : BitVec 6
  deriving DecidableEq, Repr

/-- An assigned opcode: `0x00` to `0x0B` (R94). -/
def Cmd32.opcAssigned (f : Cmd32) : Bool := f.opc.toNat ≤ 0x0B

/-- Both reserved fields are 0 (R90). -/
def Cmd32.reservedZero (f : Cmd32) : Bool := f.res1 == 0 && f.res2 == 0

/-- Does R95 give this opcode a destination register? -/
def Cmd32.usesRd (f : Cmd32) : Bool := f.opc.toNat ∈ [1, 2, 3, 4, 5, 8, 9, 10]

/-- Does R95 give this opcode a first source? -/
def Cmd32.usesRs1 (f : Cmd32) : Bool := f.opc.toNat ∈ [1, 2, 3, 4, 5, 6, 7, 8, 9, 10]

/-- Does R95 give this opcode a second source? -/
def Cmd32.usesRs2 (f : Cmd32) : Bool := f.opc.toNat ∈ [1, 2, 3, 4, 6, 7]

/-- Does R95 give this opcode a third source? -/
def Cmd32.usesRs3 (f : Cmd32) : Bool := f.opc.toNat ∈ [2, 3, 6]

/-- VAL and CRT are meaningful only for KEYGEN and KEYGENA (R92). -/
def Cmd32.usesFlags (f : Cmd32) : Bool := f.opc.toNat ∈ [6, 7]

/-- Every field R95 marks 0 for the opcode is 0. -/
def Cmd32.unusedZero (f : Cmd32) : Bool :=
  (f.usesRd || f.rd == 0) && (f.usesRs1 || f.rs1 == 0) && (f.usesRs2 || f.rs2 == 0) && (f.usesRs3 || f.rs3 == 0) &&
    (f.usesFlags || (!f.val && !f.crt))

/-- Legal fields (R96, "Equivalently"). -/
def Cmd32.wellFormed (f : Cmd32) : Bool := f.opcAssigned && f.reservedZero && f.unusedZero

end Sys2Proof
end

