-- ==== Sys2Proof/Decode.lean ====
section
/-! DEFINITION. The decoder of R96, total on every 32-bit word, by the match and mask rows of R95; after it the
encoder and the assembler text of R99. Every word without a row is illegal (R97), and the answer `none` is its
rejection: issuing it ends with ILLEGAL_COMMAND (R103). -/

namespace Sys2Proof

/-- A field in a word, its lowest bit at bit `pos` (R11): the layouts of R28, R29, R66 and R90 are unions of these. -/
def fieldAt {n : Nat} (pos : Nat) (v : BitVec n) : Word := v.setWidth 32 <<< pos

/-- One bit in a word (R11). -/
def bitAt (pos : Nat) (b : Bool) : Word := fieldAt pos (BitVec.ofBool b)

/-- The fields of a word, at the bit positions of R90. -/
def Cmd32.ofWord (w : Word) : Cmd32 :=
  { opc := w.extractLsb' 0 6, res1 := w.extractLsb' 6 2, rd := w.extractLsb' 8 4, rs1 := w.extractLsb' 12 4,
    rs2 := w.extractLsb' 16 4, rs3 := w.extractLsb' 20 4, val := w.getLsbD 24, crt := w.getLsbD 25,
    res2 := w.extractLsb' 26 6 }

/-- The word with these fields (R90; the layout of R99's `enc`). -/
def Cmd32.toWord (f : Cmd32) : Word :=
  fieldAt 0 f.opc ||| fieldAt 6 f.res1 ||| fieldAt 8 f.rd ||| fieldAt 12 f.rs1 ||| fieldAt 16 f.rs2 |||
    fieldAt 20 f.rs3 ||| bitAt 24 f.val ||| bitAt 25 f.crt ||| fieldAt 26 f.res2

/-- One row of the table of R95: a word `w` is this row's command exactly when `w &&& mask = pattern`. -/
structure Row where
  mask : Word
  pattern : Word
  /-- the command from the word's fields -/
  build : Cmd32 → Instr

/-- The table of R95, in its order. -/
def rows : List Row :=
  [ ⟨0xFFFFFFFF, 0x00000000, fun _ => .nop⟩,
    ⟨0xFFF000FF, 0x00000001, fun f => .gcd f.rd f.rs1 f.rs2⟩,
    ⟨0xFF0000FF, 0x00000002, fun f => .mulmod f.rd f.rs1 f.rs2 f.rs3⟩,
    ⟨0xFF0000FF, 0x00000003, fun f => .modpow f.rd f.rs1 f.rs2 f.rs3⟩,
    ⟨0xFFF000FF, 0x00000004, fun f => .modinv f.rd f.rs1 f.rs2⟩,
    ⟨0xFFFF00FF, 0x00000005, fun f => .prime f.rd f.rs1⟩,
    ⟨0xFC000FFF, 0x00000006, fun f => .keygen f.rs1 f.rs2 f.rs3 f.val f.crt⟩,
    ⟨0xFCF00FFF, 0x00000007, fun f => .keygena f.rs1 f.rs2 f.val f.crt⟩,
    ⟨0xFFFF00FF, 0x00000008, fun f => .encrypt f.rd f.rs1⟩,
    ⟨0xFFFF00FF, 0x00000009, fun f => .decrypt f.rd f.rs1⟩,
    ⟨0xFFFF00FF, 0x0000000A, fun f => .deccrt f.rd f.rs1⟩,
    ⟨0xFFFFFFFF, 0x0000000B, fun _ => .clrkey⟩ ]

/-- Does the word belong to the row? -/
def Row.hit (r : Row) (w : Word) : Bool := w &&& r.mask == r.pattern

/-- `Decode(w)` of R96. -/
def decode (w : Word) : Option Instr :=
  (rows.find? fun r => r.hit w).map fun r => r.build (Cmd32.ofWord w)

/-- The fields of a command with no operand beyond those given: the reserved fields are 0 (R90). -/
def Cmd32.plain (opc : BitVec 6) (rd rs1 rs2 rs3 : RegIdx) : Cmd32 :=
  { opc, res1 := 0, rd, rs1, rs2, rs3, val := false, crt := false, res2 := 0 }

/-- The fields of a key derivation, which has no RD (R95). -/
def Cmd32.keyed (opc : BitVec 6) (rs1 rs2 rs3 : RegIdx) (val crt : Bool) : Cmd32 :=
  { opc, res1 := 0, rd := 0, rs1, rs2, rs3, val, crt, res2 := 0 }

/-- The fields of a command, absent ones 0 (R94 for OPC, R95 for the rest). -/
def Instr.fields : Instr → Cmd32
  | .nop => .plain 0x00 0 0 0 0
  | .gcd rd rs1 rs2 => .plain 0x01 rd rs1 rs2 0
  | .mulmod rd rs1 rs2 rs3 => .plain 0x02 rd rs1 rs2 rs3
  | .modpow rd rs1 rs2 rs3 => .plain 0x03 rd rs1 rs2 rs3
  | .modinv rd rs1 rs2 => .plain 0x04 rd rs1 rs2 0
  | .prime rd rs1 => .plain 0x05 rd rs1 0 0
  | .keygen rs1 rs2 rs3 val crt => .keyed 0x06 rs1 rs2 rs3 val crt
  | .keygena rs1 rs2 val crt => .keyed 0x07 rs1 rs2 0 val crt
  | .encrypt rd rs1 => .plain 0x08 rd rs1 0 0
  | .decrypt rd rs1 => .plain 0x09 rd rs1 0 0
  | .deccrt rd rs1 => .plain 0x0A rd rs1 0 0
  | .clrkey => .plain 0x0B 0 0 0 0

/-- A command is well formed when its fields pass every check of R96; every term of `Instr` does. -/
def Instr.wellFormed (i : Instr) : Bool := i.fields.wellFormed

/-- The word of a command: `enc` of R99. -/
def encode (i : Instr) : Word := i.fields.toWord

/-- `g0` to `g15` (R99). -/
def regName (r : RegIdx) : String := "g" ++ toString r.toNat

/-- A mnemonic and its operands, separated by commas (R99). -/
def asmLine (mnemonic : String) (operands : List RegIdx) : String :=
  mnemonic ++ " " ++ String.intercalate ", " (operands.map regName)

/-- The suffixes of a key derivation, `.val` before `.crt` (R99). -/
def asmFlags (val crt : Bool) : String := (if val then ".val" else "") ++ (if crt then ".crt" else "")

/-- A command in the assembler syntax of R99, destination first. -/
def Instr.asm : Instr → String
  | .nop => "nop"
  | .gcd rd rs1 rs2 => asmLine "gcd" [rd, rs1, rs2]
  | .mulmod rd rs1 rs2 rs3 => asmLine "mulmod" [rd, rs1, rs2, rs3]
  | .modpow rd rs1 rs2 rs3 => asmLine "modpow" [rd, rs1, rs2, rs3]
  | .modinv rd rs1 rs2 => asmLine "modinv" [rd, rs1, rs2]
  | .prime rd rs1 => asmLine "prime" [rd, rs1]
  | .keygen rs1 rs2 rs3 val crt => asmLine ("keygen" ++ asmFlags val crt) [rs1, rs2, rs3]
  | .keygena rs1 rs2 val crt => asmLine ("keygena" ++ asmFlags val crt) [rs1, rs2]
  | .encrypt rd rs1 => asmLine "encrypt" [rd, rs1]
  | .decrypt rd rs1 => asmLine "decrypt" [rd, rs1]
  | .deccrt rd rs1 => asmLine "deccrt" [rd, rs1]
  | .clrkey => "clrkey"

/-- The command your decoder reads from a row of the opcode table: a command is one word (R98), and a bit at or
above `nbits` is 0. -/
def decodeTableWord (nbits w : Nat) : Option Instr := decode (BitVec.ofNat 32 (w % 2 ^ nbits))

end Sys2Proof
end

