-- ==== Sys2Proof/Machine/State.lean ====
section
/-! DEFINITION. The whole architectural state of R35, as plain data, with the model's own environment beside it
(the events still to come, the latest response, the reset input, the witness source), the reasons a step can stop,
and the state after reset (R36). -/

namespace Sys2Proof.Machine

/-- The error codes of R300; their 4-bit numbers are `ErrCode.code`. The reserved codes `0xA` to `0xF` are never
written, so they have no constructor (log 8). -/
inductive ErrCode where
  /-- `0x0` -/
  | ok
  /-- `0x1`: `p` or `q` refused -/
  | notPrime
  /-- `0x2`: `e` out of range or not coprime to `phi` -/
  | invalidPublicExponent
  /-- `0x3`: the search found no exponent -/
  | noValidExponent
  /-- `0x4`: an inverse does not exist -/
  | noInverse
  /-- `0x5`: `p·q` above MAX_MODULUS -/
  | operandOverflow
  /-- `0x6`: a modulus operand is 0 -/
  | zeroModulus
  /-- `0x7`: `p = q` -/
  | equalPrimes
  /-- `0x8`: no key, or no CRT parameters -/
  | noKey
  /-- `0x9`: the word written to CMD is illegal -/
  | illegalCommand
  deriving DecidableEq, Repr

/-- The key file, ten registers holding one KeyPair (R23). -/
structure KeyFile where
  /-- KP, the first prime -/
  p : Word
  /-- KQ, the second prime -/
  q : Word
  /-- KE, the public exponent -/
  e : Word
  /-- KN, the modulus -/
  n : Word
  /-- KPHI, the totient -/
  phi : Word
  /-- KD, the private exponent -/
  d : Word
  /-- KDP -/
  dp : Word
  /-- KDQ -/
  dq : Word
  /-- KQINV -/
  qinv : Word
  /-- KPINV -/
  pinv : Word
  deriving DecidableEq, Repr

/-- CTRL (R29): SRST and the reserved bits read 0 and hold nothing. -/
structure Ctrl where
  irqEn : Bool
  wcount : BitVec 8
  deriving DecidableEq, Repr

/-- STATUS (R28) but BUSY, which is `pend` not being `none` (R32, R35; log 7). Reserved bits read 0. -/
structure Status where
  done : Bool
  keyValid : Bool
  crtValid : Bool
  wrBusy : Bool
  accErr : Bool
  err : ErrCode
  errInfo : BitVec 4
  lastOpc : BitVec 6
  deriving DecidableEq, Repr

/-- The pending-command latch (R32): the command (its opcode, RD, VAL and CRT as the decoder read them; log 6),
the operand values and the witness count at issue. -/
structure Pending where
  instr : Instr
  v1 : Word
  v2 : Word
  v3 : Word
  wc : BitVec 8
  deriving DecidableEq, Repr

/-- What the engine can see next (R4): a host access of `size` bytes at a byte offset of the window, the
sequencer's turn, or an edge of the hardware reset input. -/
inductive Event where
  /-- `MemRead(ENGINE_BASE + off, size)` (R63) -/
  | read (off : BitVec 8) (size : Nat)
  /-- `MemWrite(ENGINE_BASE + off, size, v)` (R64) -/
  | write (off : BitVec 8) (size : Nat) (v : Word)
  /-- the sequencer's turn: it completes the pending command, if there is one (R104) -/
  | engine
  /-- the reset input is asserted (R340) -/
  | assertReset
  /-- the reset input is released (R340, R342) -/
  | releaseReset
  deriving DecidableEq, Repr

/-- What a host access gives back (R63, R64). -/
inductive Response where
  /-- a read's data, and whether it is an error response -/
  | read (data : Word) (error : Bool)
  /-- whether a write's response is an error -/
  | write (error : Bool)
  deriving DecidableEq, Repr

/-- The environment, the model's own (logs 1 to 5): nothing here is a register of the engine. -/
structure Env where
  /-- the events still to come, in the order the engine receives them (R71) -/
  bus : List Event
  /-- the response to the latest host access -/
  resp : Option Response
  /-- the hardware reset input is asserted (R342) -/
  resetIn : Bool
  /-- draws the random source delivers before the free ones of `Config.witness` (R151) -/
  supply : List Nat
  /-- how many draws have been consumed -/
  drawn : Nat
  deriving DecidableEq, Repr

/-- The complete state (R35) and the environment. -/
structure State where
  /-- G0 to G15 (R20) -/
  g : Vector Word 16
  key : KeyFile
  ctrl : Ctrl
  status : Status
  /-- CMD: the last word stored (R30) -/
  cmd : Word
  /-- `none` exactly when BUSY = 0 (R32) -/
  pend : Option Pending
  env : Env
  deriving DecidableEq, Repr

/-- Why the machine stops. -/
inductive Fault where
  /-- Raised by `hostStep`: a host access while the reset input is asserted, where the spec has no step (R342, and
  93_implementation_defined.md I9 "stuck"). SAFE: the model stops where the platform decides (log 3). -/
  | accessDuringReset
  /-- Raised by a command's meaning called with no command pending: completion is "enabled exactly when
  `pend = some P`" (R104). `step` never raises it. SAFE (log 9). -/
  | noCommandPending
  deriving DecidableEq, Repr

/-- Why an instruction has no meaning. -/
inductive Refusal where
  /-- Raised only by an arm of `exec` for an instruction that has no meaning yet; no arm does. SAFE. -/
  | notModelled (mnemonic : String)
  deriving DecidableEq, Repr

/-- What a step or a command answers. -/
abbrev Result := Host.Outcome State Fault Refusal

/-- The key file with every register 0 (R36, R196, R198). -/
def KeyFile.zero : KeyFile :=
  { p := 0, q := 0, e := 0, n := 0, phi := 0, d := 0, dp := 0, dq := 0, qinv := 0, pinv := 0 }

/-- The environment of a machine nobody has touched yet (DESIGN CHOICE, log 5). -/
def Env.quiet : Env := { bus := [], resp := none, resetIn := false, supply := [], drawn := 0 }

/-- The machine right after reset (R36): registers and key file 0, WCOUNT = 5, STATUS and CMD 0, nothing pending. -/
def State.reset : State :=
  { g := Vector.replicate 16 0
    key := KeyFile.zero
    ctrl := { irqEn := false, wcount := 5 }
    status := { done := false, keyValid := false, crtValid := false, wrBusy := false, accErr := false, err := .ok,
                errInfo := 0, lastOpc := 0 }
    cmd := 0
    pend := none
    env := Env.quiet }

end Sys2Proof.Machine
end

