-- ==== Sys2Proof/Machine/Ops.lean ====
section
/-! DEFINITION. The named operations over the state: register access, the key file, completion with and without an
error (the shared operation that stands where other machines take an exception: R301, R305), and reset. -/

namespace Sys2Proof.Machine

/-- `x[i]` (R12, R20). -/
def State.x (s : State) (i : RegIdx) : Word := s.g[i.toNat]'(i.isLt)

/-- `x[i] <- v` (R12, R20): `G0` is an ordinary register. -/
def State.setX (s : State) (i : RegIdx) (v : Word) : State := { s with g := s.g.set i.toNat v i.isLt }

/-- STATUS.BUSY (R28, R32). -/
def State.busy (s : State) : Bool := s.pend.isSome

/-- A natural number as the `u32` a rule stores; every rule shows that its number is one (R10). -/
def u32 (n : Nat) : Word := BitVec.ofNat 32 n

/-- The end of every completion (R104): the latch is emptied, so BUSY falls, DONE rises, and ERR and ERR_INFO say
how it ended. -/
def State.finish (s : State) (code : ErrCode) (info : BitVec 4) : State :=
  { s with pend := none, status := { s.status with done := true, err := code, errInfo := info } }

/-- `return` with no general-register result (R12, R104). -/
def State.completeOk (s : State) : State := s.finish .ok 0

/-- `return x[rd] <- v` (R12, R104): the result and the report in one step (R73). -/
def State.completeWrite (s : State) (rd : RegIdx) (v : Word) : State := (s.setX rd v).finish .ok 0

/-- `raise code(info)` (R12, R301): the command completes with the error and writes no general register. This is
the engine's whole error entry: it has no trap (R305), and the report goes with the next issue or W1C (R306). -/
def State.raise (s : State) (code : ErrCode) (info : BitVec 4) : State := s.finish code info

/-- All ten key registers at once, with KEY_VALID and CRT_VALID (R197). -/
def State.loadKey (s : State) (k : KeyFile) (crt : Bool) : State :=
  { s with key := k, status := { s.status with keyValid := true, crtValid := crt } }

/-- All ten key registers, KEY_VALID and CRT_VALID to 0 (R196, R198). -/
def State.clearKey (s : State) : State :=
  { s with key := KeyFile.zero, status := { s.status with keyValid := false, crtValid := false } }

/-- The engine's registers at their reset values (R340, R36); the events to come, the latest response and the
witness source are no registers and stay (log 5). -/
def State.resetRegs (s : State) : State := { State.reset with env := s.env }

/-- The hardware reset input is asserted: everything is reset in that step, and no step of the engine follows
before release (R340, R342). -/
def State.assertReset (s : State) : State :=
  { State.reset with env := { s.env with resetIn := true } }

/-- The hardware reset input is released (R340). -/
def State.releaseReset (s : State) : State := { s with env := { s.env with resetIn := false } }

/-- The state with these events still to come. -/
def State.withBus (s : State) (b : List Event) : State := { s with env := { s.env with bus := b } }

/-- The state with this response to the latest host access. -/
def State.respond (s : State) (r : Response) : State := { s with env := { s.env with resp := some r } }

/-- The command the sequencer can complete now: the pending one (R104), and none while the reset input is asserted
(R342). -/
def State.ready (s : State) : Option Pending := if s.env.resetIn then none else s.pend

/-- A completion from the latch (R104): it is enabled exactly when a command is pending. -/
def completing (s : State) (f : Pending → State) : Result :=
  match s.pend with
  | none => .fault .noCommandPending
  | some p => .next (f p)

end Sys2Proof.Machine
end

