-- ==== Sys2Proof/Machine/Operands.lean ====
section
/-! DEFINITION. Where a command's operands come from: the snapshot of its source registers and of WCOUNT at issue
(R22, R32, R91), and the witness draws of its completion (R151). -/

namespace Sys2Proof.Machine

/-- The latch an issue of `i` fills (R103): the values of the registers its fields name (an unused field is 0 and
names `G0`), and CTRL.WCOUNT. -/
def State.latch (s : State) (i : Instr) : Pending :=
  { instr := i, v1 := s.x i.fields.rs1, v2 := s.x i.fields.rs2, v3 := s.x i.fields.rs3, wc := s.ctrl.wcount }

/-- The k-th output of the random source for the coming completion, counted from 0: the supplied draws first, then
the free values, each used once (R151; log 4). -/
def State.raw (s : State) (k : Nat) : Nat := s.env.supply[k]?.getD (Config.witness (s.env.drawn + k))

/-- A draw for the test of `n` is always in `[2, n-2]` (R151): an output in that range is the draw itself, and any
other is brought into it. -/
def witnessIn (n r : Nat) : Nat := if 2 ≤ r ∧ r + 2 ≤ n then r else 2 + r % (n - 3)

/-- The first `k` outputs are consumed (R151: only at completion). -/
def State.consume (s : State) (k : Nat) : State :=
  { s with env := { s.env with supply := s.env.supply.drop k, drawn := s.env.drawn + k } }

end Sys2Proof.Machine
end

