-- ==== Sys2Proof/Machine/IntegerCore.lean ====
section
/-! DEFINITION. The integer core (40_integer_core.md): the pure functions R120 to R122 over exact naturals, each
loop written with a bound on its rounds that it never reaches (log 13; `gcdFn_step`, `modpowLoop_enough` in Laws),
and the commands GCD, MULMOD and MODPOW. -/

namespace Sys2Proof.Machine

/-- The loop of R120, at most `fuel` rounds. -/
def gcdLoop : Nat → Nat → Nat → Nat
  | 0, a, _ => a
  | fuel + 1, a, b => if b = 0 then a else gcdLoop fuel b (a % b)

/-- `gcd_fn(a, b)` (R120): `b` falls in every round, so `b` rounds are enough. -/
def gcdFn (a b : Nat) : Nat := gcdLoop b a b

/-- `mulmod_fn(a, b, m)` (R121): the exact product, then the exact remainder. -/
def mulmodFn (a b m : Nat) : Nat := a * b % m

/-- The loop of R122 from `result`, `b` and `e`, at most `fuel` rounds. -/
def modpowLoop (m : Nat) : Nat → Nat → Nat → Nat → Nat
  | 0, result, _, _ => result
  | fuel + 1, result, b, e =>
    if e = 0 then result
    else modpowLoop m fuel (if e % 2 = 1 then mulmodFn result b m else result) (mulmodFn b b m) (e / 2)

/-- `modpow_fn(base, exponent, m)` (R122): `e` halves in every round, so `exponent` rounds are enough. -/
def modpowFn (base exponent m : Nat) : Nat := modpowLoop m exponent (1 % m) (base % m) exponent

/-- `GCD` (R125). -/
def execGcd (rd _rs1 _rs2 : RegIdx) (s : State) : Result :=
  completing s fun p => s.completeWrite rd (u32 (gcdFn p.v1.toNat p.v2.toNat))

/-- `MULMOD` (R126). -/
def execMulmod (rd _rs1 _rs2 _rs3 : RegIdx) (s : State) : Result :=
  completing s fun p =>
    if p.v3 = 0 then s.raise .zeroModulus 0
    else s.completeWrite rd (u32 (mulmodFn p.v1.toNat p.v2.toNat p.v3.toNat))

/-- `MODPOW` (R127). -/
def execModpow (rd _rs1 _rs2 _rs3 : RegIdx) (s : State) : Result :=
  completing s fun p =>
    if p.v3 = 0 then s.raise .zeroModulus 0
    else s.completeWrite rd (u32 (modpowFn p.v1.toNat p.v2.toNat p.v3.toNat))

end Sys2Proof.Machine
end

