-- ==== Sys2Proof/Machine/Cipher.lean ====
section
/-! DEFINITION. The cipher (44_cipher.md): encryption, direct decryption and CRT decryption of one operand under
the key file. -/

namespace Sys2Proof.Machine

/-- `crt_decrypt_fn(c, p, q, dp, dq, qInv)` (R232): Garner's combination, `m1 - m2` over the integers. -/
def crtDecryptFn (c p q dp dq qinv : Nat) : Nat :=
  let m1 := modpowFn c dp p
  let m2 := modpowFn c dq q
  let h := mulmodFn qinv (((m1 : Int) - (m2 : Int)) % (p : Int)).toNat p
  m2 + h * q

/-- The value a cipher command writes: its rule's result `r`, or the free value for its operand `v` when the key file
has a zero modulus (R122 is for moduli from 1 on; log 14). -/
def cipherValue (zeroModulus : Bool) (v : Word) (r : Nat) : Word :=
  if zeroModulus then Config.zeroModulusCipher v else u32 r

/-- `ENCRYPT` (R230): a message at or above KN is no error (90_conflicts.md C9). -/
def execEncrypt (rd _rs1 : RegIdx) (s : State) : Result :=
  completing s fun p =>
    if s.status.keyValid then
      s.completeWrite rd (cipherValue (s.key.n == 0) p.v1 (modpowFn p.v1.toNat s.key.e.toNat s.key.n.toNat))
    else s.raise .noKey 0

/-- `DECRYPT`, direct form (R231). -/
def execDecrypt (rd _rs1 : RegIdx) (s : State) : Result :=
  completing s fun p =>
    if s.status.keyValid then
      s.completeWrite rd (cipherValue (s.key.n == 0) p.v1 (modpowFn p.v1.toNat s.key.d.toNat s.key.n.toNat))
    else s.raise .noKey 0

/-- `DECCRT` (R233): it needs CRT_VALID, and KPINV is not read. -/
def execDeccrt (rd _rs1 : RegIdx) (s : State) : Result :=
  completing s fun p =>
    if s.status.crtValid then
      s.completeWrite rd (cipherValue (s.key.p == 0 || s.key.q == 0) p.v1
        (crtDecryptFn p.v1.toNat s.key.p.toNat s.key.q.toNat s.key.dp.toNat s.key.dq.toNat s.key.qinv.toNat))
    else s.raise .noKey 0

end Sys2Proof.Machine
end

