-- ==== Sys2Proof/Machine/Inverse.lean ====
section
/-! DEFINITION. The modular inverse core (42_modular_inverse.md): the extended Euclidean algorithm R170, its
coefficients exact integers (R173), and the command MODINV. -/

namespace Sys2Proof.Machine

/-- The loop of R170 from `(r, new_r)` and `(t, new_t)`, at most `fuel` rounds: it answers the final `r` and `t`.
The remainders are never negative, the coefficients are. -/
def modinvLoop : Nat → Nat → Nat → Int → Int → Nat × Int
  | 0, r, _, t, _ => (r, t)
  | fuel + 1, r, newR, t, newT =>
    if newR = 0 then (r, t)
    else modinvLoop fuel newR (r - r / newR * newR) newT (t - (r / newR : Nat) * newT)

/-- `modinv_fn(e, m)` (R170): `none` is NoInverse; the last step is `t emod m` (90_conflicts.md C12). `new_r` falls
in every round from `e`, so `e` rounds are enough. -/
def modinvFn (e m : Nat) : Option Nat :=
  let f := modinvLoop e m e 0 1
  if f.1 > 1 then none else some (f.2 % (m : Int)).toNat

/-- `MODINV` (R172): ZERO_MODULUS is checked before NO_INVERSE. -/
def execModinv (rd _rs1 _rs2 : RegIdx) (s : State) : Result :=
  completing s fun p =>
    if p.v2 = 0 then s.raise .zeroModulus 0
    else
      match modinvFn p.v1.toNat p.v2.toNat with
      | none => s.raise .noInverse 0
      | some d => s.completeWrite rd (u32 d)

end Sys2Proof.Machine
end

