-- ==== Sys2Proof/Machine/Primality.lean ====
section
/-! DEFINITION. The primality test witness loop (41_primality.md): the Fermat test R150 over the random source's
outputs (R151), and the command PRIME. -/

namespace Sys2Proof.Machine

/-- The witness loop of R150 with `rounds` rounds left: `raw` is the random source, `k` how many outputs have been
taken. It answers the verdict and how many outputs have been taken in all, and stops at the first refuting witness. -/
def fermatLoop (n : Nat) (raw : Nat → Nat) : Nat → Nat → Bool × Nat
  | 0, k => (true, k)
  | rounds + 1, k =>
    if modpowFn (witnessIn n (raw k)) (n - 1) n ≠ 1 then (false, k + 1) else fermatLoop n raw rounds (k + 1)

/-- `fermat_fn(n, wc, draws)` (R150), its draws being the outputs of `raw` from the k-th on. -/
def fermatFn (n wc : Nat) (raw : Nat → Nat) (k : Nat) : Bool × Nat :=
  if n ≤ 1 then (false, k)
  else if n = 2 ∨ n = 3 then (true, k)
  else if n = 4 then (false, k)
  else fermatLoop n raw wc k

/-- `PRIME` (R152): the verdict is a result, never an error; the draws taken are consumed with it (R151). -/
def execPrime (rd _rs1 : RegIdx) (s : State) : Result :=
  completing s fun p =>
    let r := fermatFn p.v1.toNat p.wc.toNat s.raw 0
    (s.consume r.2).completeWrite rd (if r.1 then 1 else 0)

end Sys2Proof.Machine
end

