-- ==== Sys2Proof/Machine/KeyDerivation.lean ====
section
/-! DEFINITION. The RSA key derivation controller (43_key_derivation.md): `key_derive_fn` (R191) step by step in
the order of its checks (R303), and the commands KEYGEN, KEYGENA and CLRKEY. -/

namespace Sys2Proof.Machine

/-- `raise code(info)` inside the derivation (R12). -/
structure Raised where
  code : ErrCode
  info : BitVec 4
  deriving DecidableEq, Repr

/-- Step 1 with VAL = 1 (R190, R191): the Fermat test on `p`, then on `q` with the outputs that follow. It answers
the error, if any, and how many outputs were taken. -/
def testPrimes (p q wc : Nat) (raw : Nat → Nat) : Option Raised × Nat :=
  let rp := fermatFn p wc raw 0
  if rp.1 then
    let rq := fermatFn q wc raw rp.2
    (if rq.1 then none else some ⟨.notPrime, 2⟩, rq.2)
  else (some ⟨.notPrime, 1⟩, rp.2)

/-- Step 1 with VAL = 0 (R190, R191): only `p ≥ 2` and `q ≥ 2`, and no draw. -/
def trustPrimes (p q : Nat) : Option Raised × Nat :=
  (if p < 2 then some ⟨.notPrime, 1⟩ else if q < 2 then some ⟨.notPrime, 2⟩ else none, 0)

/-- The search of R192 from `e`, at most `fuel` candidates. -/
def searchLoop (phi : Nat) : Nat → Nat → Option Nat
  | 0, _ => none
  | fuel + 1, e =>
    if e < phi then (if gcdFn e phi = 1 then some e else searchLoop phi fuel (e + 2)) else none

/-- `search_e(phi)` (R192): odd candidates from 3, ascending, below `phi`; `phi` candidates are more than there are. -/
def searchE (phi : Nat) : Option Nat := searchLoop phi phi 3

/-- Step 4 (R191): the exponent found by the search, or the operator's when it passes `1 < e < phi` and
`gcd(e, phi) = 1` (90_conflicts.md C1). -/
def chooseE (eIn : Nat) (auto : Bool) (phi : Nat) : Except Raised Nat :=
  if auto then
    match searchE phi with
    | none => .error ⟨.noValidExponent, 0⟩
    | some e => .ok e
  else if eIn ≤ 1 ∨ phi ≤ eIn ∨ gcdFn eIn phi ≠ 1 then .error ⟨.invalidPublicExponent, 0⟩
  else .ok eIn

/-- The four CRT parameters (R193). -/
structure CrtParams where
  dp : Nat
  dq : Nat
  qinv : Nat
  pinv : Nat
  deriving DecidableEq, Repr

/-- `crt_params(p, q, d)` (R193): either inverse may fail when `p` and `q` share a factor (90_conflicts.md C13). -/
def crtParams (p q d : Nat) : Except Raised CrtParams :=
  match modinvFn q p with
  | none => .error ⟨.noInverse, 0⟩
  | some qinv =>
    match modinvFn p q with
    | none => .error ⟨.noInverse, 0⟩
    | some pinv => .ok { dp := d % (p - 1), dq := d % (q - 1), qinv, pinv }

/-- Step 6 (R191): the CRT parameters, or four zeros. -/
def chooseCrt (p q d : Nat) (crt : Bool) : Except Raised CrtParams :=
  if crt then crtParams p q d else .ok { dp := 0, dq := 0, qinv := 0, pinv := 0 }

/-- The KeyPair that step 7 returns (R191). -/
def makeKey (p q e d : Nat) (c : CrtParams) : KeyFile :=
  { p := u32 p, q := u32 q, e := u32 e, n := u32 (p * q), phi := u32 ((p - 1) * (q - 1)), d := u32 d,
    dp := u32 c.dp, dq := u32 c.dq, qinv := u32 c.qinv, pinv := u32 c.pinv }

/-- Steps 4 to 7 of R191, once `phi` is known. -/
def deriveExponents (p q eIn : Nat) (auto crt : Bool) : Except Raised KeyFile :=
  match chooseE eIn auto ((p - 1) * (q - 1)) with
  | .error r => .error r
  | .ok e =>
    match modinvFn e ((p - 1) * (q - 1)) with
    | none => .error ⟨.noInverse, 0⟩
    | some d =>
      match chooseCrt p q d crt with
      | .error r => .error r
      | .ok c => .ok (makeKey p q e d c)

/-- Steps 2 to 7 of R191, the primes having passed step 1. -/
def deriveKey (p q eIn : Nat) (auto crt : Bool) : Except Raised KeyFile :=
  if p = q then .error ⟨.equalPrimes, 0⟩
  else if p * q > Config.maxModulus then .error ⟨.operandOverflow, 0⟩
  else deriveExponents p q eIn auto crt

/-- `key_derive_fn(p, q, e_in, auto, val, crt, wc, draws)` (R191), and how many outputs of the random source it
took. -/
def keyDeriveFn (p q eIn : Nat) (auto val crt : Bool) (wc : Nat) (raw : Nat → Nat) : Except Raised KeyFile × Nat :=
  match if val then testPrimes p q wc raw else trustPrimes p q with
  | (some r, used) => (.error r, used)
  | (none, used) => (deriveKey p q eIn auto crt, used)

/-- The completion of a key derivation: the whole key on success (R197), the key cleared and the error recorded on
failure (R198). No general register is written. -/
def State.completeKey (s : State) (crt : Bool) : Except Raised KeyFile → State
  | .ok k => (s.loadKey k crt).completeOk
  | .error r => s.clearKey.raise r.code r.info

/-- `KEYGEN` (R194): operator-supplied `e`. -/
def execKeygen (_rs1 _rs2 _rs3 : RegIdx) (val crt : Bool) (s : State) : Result :=
  completing s fun p =>
    let r := keyDeriveFn p.v1.toNat p.v2.toNat p.v3.toNat false val crt p.wc.toNat s.raw
    (s.consume r.2).completeKey crt r.1

/-- `KEYGENA` (R195): automatic search of `e`. -/
def execKeygena (_rs1 _rs2 : RegIdx) (val crt : Bool) (s : State) : Result :=
  completing s fun p =>
    let r := keyDeriveFn p.v1.toNat p.v2.toNat 0 true val crt p.wc.toNat s.raw
    (s.consume r.2).completeKey crt r.1

/-- `CLRKEY` (R196). -/
def execClrkey (s : State) : Result := completing s fun _ => s.clearKey.completeOk

end Sys2Proof.Machine
end

