-- ==== Sys2Proof/Machine/System.lean ====
section
/-! DEFINITION. The system command (45_system.md): NOP. The engine has no control transfer and no privileged
command (R261, R262). -/

namespace Sys2Proof.Machine

/-- `NOP` (R260): it completes like every legal command and writes no register. -/
def execNop (s : State) : Result := completing s fun _ => s.completeOk

end Sys2Proof.Machine
end

