-- ==== Sys2Proof/Machine/Dispatch.lean ====
section
/-! DEFINITION. `Exec` (R105): the completion of a command, one arm per command. -/

namespace Sys2Proof.Machine

def exec (i : Instr) (s : State) : Host.Outcome State Fault Refusal :=
  match i with
  | .nop => Sys2Proof.Machine.execNop s
  | .gcd rd rs1 rs2 => Sys2Proof.Machine.execGcd rd rs1 rs2 s
  | .mulmod rd rs1 rs2 rs3 => Sys2Proof.Machine.execMulmod rd rs1 rs2 rs3 s
  | .modpow rd rs1 rs2 rs3 => Sys2Proof.Machine.execModpow rd rs1 rs2 rs3 s
  | .modinv rd rs1 rs2 => Sys2Proof.Machine.execModinv rd rs1 rs2 s
  | .prime rd rs1 => Sys2Proof.Machine.execPrime rd rs1 s
  | .keygen rs1 rs2 rs3 val crt => Sys2Proof.Machine.execKeygen rs1 rs2 rs3 val crt s
  | .keygena rs1 rs2 val crt => Sys2Proof.Machine.execKeygena rs1 rs2 val crt s
  | .encrypt rd rs1 => Sys2Proof.Machine.execEncrypt rd rs1 s
  | .decrypt rd rs1 => Sys2Proof.Machine.execDecrypt rd rs1 s
  | .deccrt rd rs1 => Sys2Proof.Machine.execDeccrt rd rs1 s
  | .clrkey => Sys2Proof.Machine.execClrkey s

end Sys2Proof.Machine
end

