-- ==== Sys2Proof/Machine/Flags.lean ====
section
/-! DEFINITION. The engine's only flags are the STATUS bits (R34): the codes of ERR, the STATUS and CTRL words a
read returns, what a write to either does, and the interrupt output. -/

namespace Sys2Proof.Machine

/-- The number of an error code in STATUS.ERR (R300). -/
def ErrCode.code : ErrCode → BitVec 4
  | .ok => 0x0
  | .notPrime => 0x1
  | .invalidPublicExponent => 0x2
  | .noValidExponent => 0x3
  | .noInverse => 0x4
  | .operandOverflow => 0x5
  | .zeroModulus => 0x6
  | .equalPrimes => 0x7
  | .noKey => 0x8
  | .illegalCommand => 0x9

/-- The word a read of STATUS returns (R63, layout of R28), `busy` being bit 0; reserved bits
read 0. -/
def Status.word (t : Status) (busy : Bool) : Word :=
  bitAt 0 busy ||| bitAt 1 t.done ||| bitAt 2 t.keyValid ||| bitAt 3 t.crtValid ||| bitAt 4 t.wrBusy |||
    bitAt 5 t.accErr ||| fieldAt 8 t.err.code ||| fieldAt 12 t.errInfo ||| fieldAt 16 t.lastOpc

/-- The word a read of CTRL returns (R63, layout of R29): SRST and the reserved bits read
0. -/
def Ctrl.word (c : Ctrl) : Word := bitAt 0 c.irqEn ||| fieldAt 8 c.wcount

/-- STATUS as the host reads it. -/
def State.statusWord (s : State) : Word := s.status.word s.busy

/-- A write to STATUS (R64): DONE, WR_BUSY and ACC_ERR are cleared by a 1, every other bit is ignored. -/
def Status.clearW1C (t : Status) (v : Word) : Status :=
  { t with done := t.done && !v.getLsbD 1, wrBusy := t.wrBusy && !v.getLsbD 4, accErr := t.accErr && !v.getLsbD 5 }

/-- A write to CTRL that is no soft reset (R64): IRQ_EN and WCOUNT, every other bit ignored. -/
def Ctrl.ofWord (v : Word) : Ctrl := { irqEn := v.getLsbD 0, wcount := v.extractLsb' 8 8 }

/-- A refused access sets ACC_ERR (R62). -/
def State.flagAccess (s : State) : State := { s with status := { s.status with accErr := true } }

/-- A write dropped because BUSY = 1 sets WR_BUSY (R64). -/
def State.flagBusyWrite (s : State) : State := { s with status := { s.status with wrBusy := true } }

/-- The interrupt output, a level (R310): `irq = STATUS.DONE ∧ CTRL.IRQ_EN`. -/
def State.irq (s : State) : Bool := s.status.done && s.ctrl.irqEn

end Sys2Proof.Machine
end

