-- ==== Sys2Proof/Machine/HostPort.lean ====
section
/-! DEFINITION. The host's side: the register map (R61), which accesses are refused (R62), issue (R103), the host's
read and write (R63, R64), their form by absolute address (R65) and by byte lane (R66), and the host-script
notation (R100). -/

namespace Sys2Proof.Machine

/-- The ten key-file registers (R23). -/
inductive KeyReg where
  | kp | kq | ke | kn | kphi | kd | kdp | kdq | kqinv | kpinv
  deriving DecidableEq, Repr

/-- A mapped register (R61). -/
inductive Reg where
  | id
  | version
  | ctrl
  | status
  | cmd
  | g (i : RegIdx)
  | key (k : KeyReg)
  deriving DecidableEq, Repr

/-- ID, a constant (R27). -/
def idWord : Word := 0x52534145

/-- VERSION, a constant (R27). -/
def versionWord : Word := 0x00000001

/-- A key-file register's number, its offset being `0x80` plus four times it (R61). -/
def KeyReg.number : KeyReg → Nat
  | .kp => 0
  | .kq => 1
  | .ke => 2
  | .kn => 3
  | .kphi => 4
  | .kd => 5
  | .kdp => 6
  | .kdq => 7
  | .kqinv => 8
  | .kpinv => 9

/-- The key-file register with a number. -/
def keyRegOf : Nat → Option KeyReg
  | 0 => some .kp
  | 1 => some .kq
  | 2 => some .ke
  | 3 => some .kn
  | 4 => some .kphi
  | 5 => some .kd
  | 6 => some .kdp
  | 7 => some .kdq
  | 8 => some .kqinv
  | 9 => some .kpinv
  | _ => none

/-- `K.f` (R12). -/
def KeyFile.read (k : KeyFile) : KeyReg → Word
  | .kp => k.p
  | .kq => k.q
  | .ke => k.e
  | .kn => k.n
  | .kphi => k.phi
  | .kd => k.d
  | .kdp => k.dp
  | .kdq => k.dq
  | .kqinv => k.qinv
  | .kpinv => k.pinv

/-- A register's byte offset (R61). -/
def Reg.offset : Reg → BitVec 8
  | .id => 0x00
  | .version => 0x04
  | .ctrl => 0x08
  | .status => 0x0C
  | .cmd => 0x10
  | .g i => BitVec.ofNat 8 (0x40 + 4 * i.toNat)
  | .key k => BitVec.ofNat 8 (0x80 + 4 * k.number)

/-- The register in the k-th word of the window, none where the map has it reserved (R61, R31). -/
def regOfIndex (k : Nat) : Option Reg :=
  if k = 0 then some .id
  else if k = 1 then some .version
  else if k = 2 then some .ctrl
  else if k = 3 then some .status
  else if k = 4 then some .cmd
  else if k < 16 then none
  else if k < 32 then some (.g (BitVec.ofNat 4 (k - 16)))
  else (keyRegOf (k - 32)).map .key

/-- The register at a byte offset: none where the offset is misaligned or reserved (R62). -/
def regAt (off : BitVec 8) : Option Reg :=
  if off.toNat % 4 = 0 then regOfIndex (off.toNat / 4) else none

/-- The register an access of `size` bytes reaches: none where the access is refused for its size, its alignment or
its offset (R62, R67). -/
def accessAt (off : BitVec 8) (size : Nat) : Option Reg := if size = 4 then regAt off else none

/-- What a read of a register returns (R63); no such read changes anything. -/
def readReg (s : State) : Reg → Word
  | .id => idWord
  | .version => versionWord
  | .ctrl => s.ctrl.word
  | .status => s.statusWord
  | .cmd => s.cmd
  | .g i => s.x i
  | .key k => s.key.read k

/-- `HostRead(off, size)` (R63). -/
def hostRead (off : BitVec 8) (size : Nat) (s : State) : State :=
  match accessAt off size with
  | none => s.flagAccess.respond (.read 0 true)
  | some r => s.respond (.read (readReg s r) false)

/-- An illegal word completes in the issuing write: BUSY never rises (R103). -/
def issueIllegal (s : State) : State :=
  { s with status := { s.status with done := true, err := .illegalCommand, errInfo := 0 } }

/-- A legal command is latched: BUSY rises, DONE falls, the report is zeroed (R103, R306). -/
def issueLegal (i : Instr) (s : State) : State :=
  { s with pend := some (s.latch i), status := { s.status with done := false, err := .ok, errInfo := 0 } }

/-- `Issue(w)` (R103): CMD and LAST_OPC take the word whether or not it is legal. -/
def issue (w : Word) (s : State) : State :=
  let s := { s with cmd := w, status := { s.status with lastOpc := w.extractLsb' 0 6 } }
  match decode w with
  | none => issueIllegal s
  | some i => issueLegal i s

/-- A write to CTRL (R64): bit 1 performs the soft reset and the rest of the value is then ignored (R29, R340). -/
def writeCtrl (v : Word) (s : State) : State :=
  if v.getLsbD 1 then s.resetRegs else { s with ctrl := Ctrl.ofWord v }

/-- A write to CMD or to a general register is dropped while a command is pending (R64, R344). -/
def unlessBusy (s : State) (f : State → State) : State := if s.busy then s.flagBusyWrite else f s

/-- What a write to a register does, and whether it is refused because the register is read-only (R62, R64). -/
def writeReg (s : State) (v : Word) : Reg → State × Bool
  | .id => (s.flagAccess, true)
  | .version => (s.flagAccess, true)
  | .ctrl => (writeCtrl v s, false)
  | .status => ({ s with status := s.status.clearW1C v }, false)
  | .cmd => (unlessBusy s (issue v), false)
  | .g i => (unlessBusy s fun s => s.setX i v, false)
  | .key _ => (s.flagAccess, true)

/-- `HostWrite(off, size, v)` (R64). -/
def hostWrite (off : BitVec 8) (size : Nat) (v : Word) (s : State) : State :=
  match accessAt off size with
  | none => s.flagAccess.respond (.write true)
  | some r => (writeReg s v r).1.respond (.write (writeReg s v r).2)

/-- A host access is a step only while the reset input is released: during reset the model has no host step (R342,
log 3). -/
def hostStep (f : State → State) (s : State) : Result :=
  if s.env.resetIn then .fault .accessDuringReset else .next (f s)

/-- The offset a byte address names in the window at ENGINE_BASE, none outside it (R60, R65). -/
def windowOffset (addr : Nat) : Option (BitVec 8) :=
  if Config.engineBase ≤ addr ∧ addr < Config.engineBase + Config.windowBytes then
    some (BitVec.ofNat 8 (addr - Config.engineBase))
  else none

/-- The event `MemRead(addr, size)` puts on the bus (R12, R63): none where the address is not the engine's. -/
def memRead (addr size : Nat) : Option Event := (windowOffset addr).map fun off => .read off size

/-- The event `MemWrite(addr, size, v)` puts on the bus (R12, R64). -/
def memWrite (addr size : Nat) (v : Word) : Option Event := (windowOffset addr).map fun off => .write off size v

/-- Byte lane `k` of a word carries bits `8k+7 .. 8k` (R66); lane 0 belongs to the lowest byte address. -/
def busLane (v : Word) (k : Nat) : BitVec 8 := v.extractLsb' (8 * k) 8

/-- The word on four byte lanes, lane 0 first (R66). -/
def ofLanes (b0 b1 b2 b3 : BitVec 8) : Word :=
  fieldAt 0 b0 ||| fieldAt 8 b1 ||| fieldAt 16 b2 ||| fieldAt 24 b3

/-- `wr REG, v` (R100). -/
def hostWr (r : Reg) (v : Word) : Event := .write r.offset 4 v

/-- `rd REG` (R100). -/
def hostRd (r : Reg) : Event := .read r.offset 4

/-- `cmd <command>` (R100). -/
def hostCmd (i : Instr) : Event := hostWr .cmd (encode i)

/-- `clrdone` (R100). -/
def hostClrdone : Event := hostWr .status 0x00000002

/-- `wait` (R100): `polls` reads of STATUS that see BUSY = 1, the completion, and the read that sees BUSY = 0. How
often the host polls is its own affair. -/
def hostWait (polls : Nat) : List Event := List.replicate polls (hostRd .status) ++ [.engine, hostRd .status]

/-- `run <command>` (R100): `cmd <command>`, then `wait`. -/
def hostRun (i : Instr) (polls : Nat) : List Event := hostCmd i :: hostWait polls

/-- `rd REG ; expect v` (R100): the latest read was answered ok with `v`. -/
def State.gave (s : State) (v : Word) : Bool := s.env.resp == some (.read v false)

/-- Is the event a host access? -/
def Event.isAccess : Event → Bool
  | .read _ _ => true
  | .write _ _ _ => true
  | .engine => false
  | .assertReset => false
  | .releaseReset => false

/-- Which orders of delivery the host's interconnect allows for accesses in program order (R72): `inOrder` keeps
them, `reordering` may permute them; the engine's own turns fall anywhere between (R304). -/
def delivers (o : Config.HostOrdering) (program bus : List Event) : Prop :=
  match o with
  | .inOrder => bus.filter Event.isAccess = program
  | .reordering => (bus.filter Event.isAccess).Perm program

end Sys2Proof.Machine
end

