-- ==== Sys2Proof/Machine/Step.lean ====
section
/-! DEFINITION. One step of the machine (R4, R71): a host access, a completion, or an edge of the reset input, as
the head of the event list says; with no event left, the sequencer's turn (R5; log 1). -/

namespace Sys2Proof.Machine

/-- The sequencer's turn: `Exec` on the pending command (R104, R105); an idle engine keeps every register (R325). -/
def completion (s : State) : Result :=
  match s.ready with
  | none => .next s
  | some p => exec p.instr s

/-- One event. -/
def stepEvent (e : Event) (s : State) : Result :=
  match e with
  | .read off size => hostStep (hostRead off size) s
  | .write off size v => hostStep (hostWrite off size v) s
  | .engine => completion s
  | .assertReset => .next s.assertReset
  | .releaseReset => .next s.releaseReset

/-- One step. -/
def step (s : State) : Host.Outcome State Fault Refusal :=
  match s.env.bus with
  | [] => completion s
  | e :: rest => stepEvent e (s.withBus rest)

/-- `s` with the command word `w` as what the next step runs (log 15). A legal word has been issued by the host's
CMD write (R103) on an idle engine out of reset, and the sequencer has the next turn; an illegal word, which
completes in the write itself, is the CMD write the next step performs. -/
def State.withFetchWord (s : State) (nbits w : Nat) : State :=
  let word : Word := BitVec.ofNat 32 (w % 2 ^ nbits)
  let idle : State := { s with pend := none, env := { s.env with resetIn := false } }
  match decode word with
  | some _ => (issue word idle).withBus (.engine :: s.env.bus)
  | none => idle.withBus (hostWr .cmd word :: s.env.bus)

end Sys2Proof.Machine
end

