-- ==== Sys2Proof/Safety.lean ====
section
/-! DEFINITION. What the claims speak of: the states a completion must end in (R104, R301), the invariants of every
reachable state (R25, R28, R32, R342), the host's duties (R344, R353), the end of a run (R352), and what a step may
answer. -/

namespace Sys2Proof

open Machine

/-- The commands that derive a key (R24 (a), (b)). -/
def Instr.derivesKey : Instr → Bool
  | .keygen _ _ _ _ _ => true
  | .keygena _ _ _ _ => true
  | .nop => false
  | .gcd _ _ _ => false
  | .mulmod _ _ _ _ => false
  | .modpow _ _ _ _ => false
  | .modinv _ _ _ => false
  | .prime _ _ => false
  | .encrypt _ _ => false
  | .decrypt _ _ => false
  | .deccrt _ _ => false
  | .clrkey => false

/-- The commands that read the key file (44_cipher.md). -/
def Instr.readsKey : Instr → Bool
  | .encrypt _ _ => true
  | .decrypt _ _ => true
  | .deccrt _ _ => true
  | .nop => false
  | .gcd _ _ _ => false
  | .mulmod _ _ _ _ => false
  | .modpow _ _ _ _ => false
  | .modinv _ _ _ => false
  | .prime _ _ => false
  | .keygen _ _ _ _ _ => false
  | .keygena _ _ _ _ => false
  | .clrkey => false

/-- The commands that draw witnesses (R104): PRIME, and key derivation with VAL = 1. -/
def Instr.draws : Instr → Bool
  | .prime _ _ => true
  | .keygen _ _ _ val _ => val
  | .keygena _ _ val _ => val
  | .nop => false
  | .gcd _ _ _ => false
  | .mulmod _ _ _ _ => false
  | .modpow _ _ _ _ => false
  | .modinv _ _ _ => false
  | .encrypt _ _ => false
  | .decrypt _ _ => false
  | .deccrt _ _ => false
  | .clrkey => false

/-- The codes a command's completion may write (R300, columns "raised by", and OK by every command). -/
def Instr.mayReport : Instr → ErrCode → Bool
  | _, .ok => true
  | .keygen _ _ _ _ _, c => c ∈ [.notPrime, .equalPrimes, .operandOverflow, .invalidPublicExponent, .noInverse]
  | .keygena _ _ _ _, c => c ∈ [.notPrime, .equalPrimes, .operandOverflow, .noValidExponent, .noInverse]
  | .mulmod _ _ _ _, c => c == .zeroModulus
  | .modpow _ _ _ _, c => c == .zeroModulus
  | .modinv _ _ _, c => c == .zeroModulus || c == .noInverse
  | .encrypt _ _, c => c == .noKey
  | .decrypt _ _, c => c == .noKey
  | .deccrt _ _, c => c == .noKey
  | .nop, _ => false
  | .gcd _ _ _, _ => false
  | .prime _ _, _ => false
  | .clrkey, _ => false

end Sys2Proof

namespace Sys2Proof.Machine

/-- The whole state after a completion with this report and nothing else (R104, R301): BUSY falls, DONE rises, ERR
and ERR_INFO are written, everything else is as before. -/
def State.ended (s : State) (code : ErrCode) (info : BitVec 4) : State :=
  { g := s.g
    key := s.key
    ctrl := s.ctrl
    status := { done := true, keyValid := s.status.keyValid, crtValid := s.status.crtValid, wrBusy := s.status.wrBusy,
                accErr := s.status.accErr, err := code, errInfo := info, lastOpc := s.status.lastOpc }
    cmd := s.cmd
    pend := none
    env := s.env }

/-- The whole state after a completion with `ERR = OK` whose result `v` goes to `x[rd]` (R104). -/
def State.endedWith (s : State) (rd : RegIdx) (v : Nat) : State :=
  { s.ended .ok 0 with g := s.g.set rd.toNat (BitVec.ofNat 32 v) rd.isLt }

/-- The whole state after a key derivation that succeeds (R197). -/
def State.endedWithKey (s : State) (k : KeyFile) (crt : Bool) : State :=
  { s.ended .ok 0 with
    key := k
    status := { (s.ended .ok 0).status with keyValid := true, crtValid := crt } }

/-- The whole state after a completion that clears the key file (R196, R198). -/
def State.endedCleared (s : State) (code : ErrCode) (info : BitVec 4) : State :=
  { s.ended code info with
    key := KeyFile.zero
    status := { (s.ended code info).status with keyValid := false, crtValid := false } }

/-- The state with `k` draws consumed (R151). -/
def State.drew (s : State) (k : Nat) : State :=
  { s with env := { s.env with supply := s.env.supply.drop k, drawn := s.env.drawn + k } }

/-- Step 1 of the derivation passes `p` and `q`, taking `used` outputs of the random source: with VAL = 0 both are at
least 2, with VAL = 1 both pass the Fermat test, `q`'s draws following `p`'s (R190, R191). -/
def PrimesAccepted (val : Bool) (p q wc : Nat) (raw : Nat → Nat) (used : Nat) : Prop :=
  (val = false ∧ 2 ≤ p ∧ 2 ≤ q ∧ used = 0) ∨
    (val = true ∧ (fermatFn p wc raw 0).1 = true ∧ fermatFn q wc raw (fermatFn p wc raw 0).2 = (true, used))

/-- `e` is an odd number from 3 on, below `phi` and coprime to it: a candidate the search of R192 accepts. -/
def Searched (phi e : Nat) : Prop := 3 ≤ e ∧ e % 2 = 1 ∧ e < phi ∧ Nat.gcd e phi = 1

/-- What KEY_VALID = 1 says of the key file (R25 (4)). -/
structure KeyFile.Holds (k : KeyFile) : Prop where
  p_ge : 2 ≤ k.p.toNat
  q_ge : 2 ≤ k.q.toNat
  distinct : k.p ≠ k.q
  modulus : k.n.toNat = k.p.toNat * k.q.toNat
  totient : k.phi.toNat = (k.p.toNat - 1) * (k.q.toNat - 1)
  e_gt : 1 < k.e.toNat
  e_lt : k.e.toNat < k.phi.toNat
  e_coprime : Nat.gcd k.e.toNat k.phi.toNat = 1
  inverse : k.e.toNat * k.d.toNat % k.phi.toNat = 1
  d_lt : k.d.toNat < k.phi.toNat

/-- What CRT_VALID = 1 says of the key file (R25 (5)). -/
structure KeyFile.CrtHolds (k : KeyFile) : Prop where
  dp_eq : k.dp.toNat = k.d.toNat % (k.p.toNat - 1)
  dq_eq : k.dq.toNat = k.d.toNat % (k.q.toNat - 1)
  qinv_inverse : k.q.toNat * k.qinv.toNat % k.p.toNat = 1 % k.p.toNat
  pinv_inverse : k.p.toNat * k.pinv.toNat % k.q.toNat = 1 % k.q.toNat
  qinv_lt : k.qinv.toNat < k.p.toNat
  pinv_lt : k.pinv.toNat < k.q.toNat

/-- The key-file invariants (R25, (1) to (5)). -/
structure State.KeyInv (s : State) : Prop where
  empty : s.status.keyValid = false → s.key = KeyFile.zero
  crt_key : s.status.crtValid = true → s.status.keyValid = true
  no_crt : s.status.keyValid = true → s.status.crtValid = false →
    s.key.dp = 0 ∧ s.key.dq = 0 ∧ s.key.qinv = 0 ∧ s.key.pinv = 0
  holds : s.status.keyValid = true → s.key.Holds
  crt_holds : s.status.crtValid = true → s.key.CrtHolds

/-- What the latch has to do with the rest of the state while a command is pending (R21, R22, R30, R32, R103): CMD
still holds the word it was decoded from, the source registers still hold the latched values, and the report is the
zeroed one of the issue (so DONE = 1 means nothing is pending, R311). -/
structure State.LatchHolds (s : State) (p : Pending) : Prop where
  decoded : decode s.cmd = some p.instr
  v1_eq : p.v1 = s.x p.instr.fields.rs1
  v2_eq : p.v2 = s.x p.instr.fields.rs2
  v3_eq : p.v3 = s.x p.instr.fields.rs3
  not_done : s.status.done = false
  err_ok : s.status.err = .ok
  info_zero : s.status.errInfo = 0

/-- Every register of the engine has its reset value and no command is pending (R36). -/
structure State.RegistersReset (s : State) : Prop where
  general : ∀ i, s.x i = 0
  key_file : s.key = KeyFile.zero
  ctrl_eq : s.ctrl = { irqEn := false, wcount := 5 }
  status_eq : s.status =
    { done := false, keyValid := false, crtValid := false, wrBusy := false, accErr := false, err := .ok, errInfo := 0,
      lastOpc := 0 }
  cmd_eq : s.cmd = 0
  idle : s.pend = none

/-- The control invariants: the latch (R32), LAST_OPC and CMD (R28, R30), ERR_INFO (R28, R300), and the reset input
(R340, R342: while it is asserted every register is at its reset value). -/
structure State.ControlInv (s : State) : Prop where
  latch : ∀ p, s.pend = some p → s.LatchHolds p
  last_opc : s.status.lastOpc = s.cmd.extractLsb' 0 6
  info_other : s.status.err ≠ .notPrime → s.status.errInfo = 0
  info_prime : s.status.err = .notPrime → s.status.errInfo = 1 ∨ s.status.errInfo = 2
  in_reset : s.env.resetIn = true → s = { State.reset with env := s.env }

/-- A host access that keeps the host's duties (R344, R353): mapped registers by aligned 32-bit accesses, no write to
a read-only register, and CMD and the general registers written only while BUSY = 0. -/
def Event.dutiful (s : State) : Event → Bool
  | .read off size => (accessAt off size).isSome
  | .write off size _ =>
    match accessAt off size with
    | some .ctrl => true
    | some .status => true
    | some .cmd => !s.busy
    | some (.g _) => !s.busy
    | some .id => false
    | some .version => false
    | some (.key _) => false
    | none => false
  | .engine => true
  | .assertReset => true
  | .releaseReset => true

/-- The end of a run (R352): the host has performed its last access and the engine is idle. Turns of the sequencer
and edges of the reset input may still come; a pending command is still owed its completion. -/
def State.final (s : State) : Bool := s.env.bus.all (fun e => !e.isAccess) && s.pend.isNone

/-- The next event is a host access that meets the asserted reset input, the one place where the machine stops
(R342). -/
def State.accessMeetsReset (s : State) : Bool :=
  s.env.resetIn && (match s.env.bus with | [] => false | e :: _ => e.isAccess)

/-- A soft-reset write: a 32-bit write to CTRL with SRST set (R64, R340). -/
def Event.isSoftReset : Event → Bool
  | .write off size v => accessAt off size == some .ctrl && v.getLsbD 1
  | .read _ _ => false
  | .engine => false
  | .assertReset => false
  | .releaseReset => false

end Sys2Proof.Machine
end

