-- ==== Sys2Proof/Certificates/Slice0/Obligations.lean ====
section
/-! DEFINITION. The statements for the provers, each about every state and every operand the spec's rule covers. A
meaning is `exec i s`, the completion of a pending command (R104): its hypothesis is that a command is pending, its
conclusion the whole next state, so each is result, completion and frame at once. Where a rule names a command's
encoding and operands, the first two clauses state them. -/

open Sys2Proof Sys2Proof.Machine

/-! ### Encoding -/

/-- R96, R99: decoding the word of a command gives the command back, with every register and flag at every value. -/
def Obligations.DecodeOfEncode : Prop := ∀ i : Instr, decode (encode i) = some i

/-- R96: a word has one meaning; the word of the command it decodes to is the word itself, so no bit is ignored. -/
def Obligations.EncodeOfDecode : Prop := ∀ (w : Word) (i : Instr), decode w = some i → encode i = w

/-- R96, "Equivalently": a word is legal exactly when its opcode is assigned, its reserved bits are 0 and every field
R95 marks 0 for the opcode is 0. -/
def Obligations.LegalWordsByFields : Prop := ∀ w : Word, (decode w).isSome = (Cmd32.ofWord w).wellFormed

/-- R99: the encoding formula `enc = OPC | RD<<8 | RS1<<12 | RS2<<16 | RS3<<20 | VAL<<24 | CRT<<25`, the fields being
disjoint. -/
def Obligations.EncodingFormula : Prop :=
  ∀ i : Instr, (encode i).toNat =
    i.fields.opc.toNat + i.fields.rd.toNat * 2 ^ 8 + i.fields.rs1.toNat * 2 ^ 12 + i.fields.rs2.toNat * 2 ^ 16 +
      i.fields.rs3.toNat * 2 ^ 20 + i.fields.val.toNat * 2 ^ 24 + i.fields.crt.toNat * 2 ^ 25

/-- R99's six examples, and illegal words of 95_test_vectors.md §2.8. -/
def Obligations.SpecWordsDecode : Prop :=
  decode 0x00021301 = some (.gcd 3 1 2) ∧ decode 0x00210303 = some (.modpow 3 0 1 2) ∧
  decode 0x03210006 = some (.keygen 0 1 2 true true) ∧ decode 0x02010007 = some (.keygena 0 1 false true) ∧
  decode 0x00003408 = some (.encrypt 4 3) ∧ decode 0x00000000 = some .nop ∧
  decode 0x00000100 = none ∧ decode 0x0000000C = none ∧ decode 0x00000041 = none ∧ decode 0x04000006 = none ∧
  decode 0x01021301 = none ∧ decode 0x03F10007 = none

/-! ### Issue and the step -/

/-- R103, R22, R91: a write to CMD on an idle engine. An illegal word completes at once, BUSY staying 0; a legal one
is latched with the values of its source registers and WCOUNT. In both, CMD and LAST_OPC take the word, and nothing
else changes. -/
def Obligations.IssueLatchesOrRefuses : Prop :=
  ∀ (w : Word) (s : State), s.pend = none →
    (decode w = none →
      writeReg s w .cmd =
        ({ s with
            cmd := w
            status := { s.status with
              lastOpc := w.extractLsb' 0 6, done := true, err := .illegalCommand, errInfo := 0 } }, false)) ∧
    (∀ i, decode w = some i →
      writeReg s w .cmd =
        ({ s with
            cmd := w
            pend := some
              { instr := i, v1 := s.x i.fields.rs1, v2 := s.x i.fields.rs2, v3 := s.x i.fields.rs3,
                wc := s.ctrl.wcount }
            status := { s.status with lastOpc := w.extractLsb' 0 6, done := false, err := .ok, errInfo := 0 } },
          false))

/-- A step runs the decoded command: the sequencer's turn is `exec` of the pending command (R104, R105), with the
event taken off the list; a CMD write of a legal word makes it the pending command, so that the next turn is its
`exec`; and `withFetchWord` places a word where the next step runs it (the model's choice, log 15). -/
def Obligations.StepRunsDecodedCommand : Prop :=
  (∀ (s : State) (p : Pending), s.env.resetIn = false → s.pend = some p →
    (s.env.bus = [] → step s = exec p.instr s) ∧
    (∀ rest, s.env.bus = .engine :: rest → step s = exec p.instr (s.withBus rest))) ∧
  (∀ (s : State) (w : Word) (i : Instr) (rest : List Event),
    s.env.resetIn = false → s.pend = none → decode w = some i → s.env.bus = .write 0x10 4 w :: .engine :: rest →
    ∃ t, step s = .next t ∧ t.cmd = w ∧ t.pend = some (s.latch i) ∧ t.g = s.g ∧ t.key = s.key ∧
      step t = exec i (t.withBus rest)) ∧
  (∀ (s : State) (nbits w : Nat) (i : Instr), decodeTableWord nbits w = some i →
    step (s.withFetchWord nbits w) = exec i ((s.withFetchWord nbits w).withBus s.env.bus))

/-- R262's quoted policy "No operation is fatal", with R342: a step stops in one case only, a host access that meets
the asserted reset input, and in every other state it answers a next state. -/
def Obligations.StepStopsOnlyInReset : Prop :=
  ∀ s : State,
    (s.accessMeetsReset = true → step s = .fault .accessDuringReset) ∧
    (s.accessMeetsReset = false → ∃ t, step s = .next t)

/-- R5, R350: a pending command completes after finitely many steps. The events still to come are finitely many; one
step more than there are of them leaves no event and an idle engine, the end of the run (R352), unless the reset
input is asserted among them. The fairness itself (a turn of the sequencer at the end) is the model's choice, log 1. -/
def Obligations.PendingCommandCompletes : Prop :=
  ∀ s : State, s.env.resetIn = false → Event.assertReset ∉ s.env.bus →
    ∃ t, core.run (s.env.bus.length + 1) s = .next t ∧ t.env.bus = [] ∧ t.pend = none ∧ t.final = true

/-- R76, R346, R344, R102: no host access but a soft reset changes an issued command: its latch, the registers and
the key file stay, and it completes with the same registers, key file and report as if the access had not been. -/
def Obligations.LatchIsUndisturbed : Prop :=
  ∀ (s t : State) (p : Pending) (e : Event),
    s.pend = some p → e.isAccess = true → e.isSoftReset = false → stepEvent e s = .next t →
    t.pend = some p ∧ t.g = s.g ∧ t.key = s.key ∧ t.cmd = s.cmd ∧
    ∀ a b, exec p.instr s = .next a → exec p.instr t = .next b →
      b.g = a.g ∧ b.key = a.key ∧ b.status.err = a.status.err ∧ b.status.errInfo = a.status.errInfo ∧
      b.status.keyValid = a.status.keyValid ∧ b.status.crtValid = a.status.crtValid

/-! ### The commands -/

/-- R260: NOP is the word 0 and no other, a non-zero bit outside OPC making the word illegal; issuing it raises BUSY
with LAST_OPC = 0; it completes with DONE, ERR = OK and ERR_INFO = 0, and writes no register. -/
def Obligations.NopCompletes : Prop :=
  (∀ w : Word, decode w = some .nop ↔ w = 0x00000000) ∧
  (∀ w : Word, w.extractLsb' 0 6 = 0 → w ≠ 0x00000000 → decode w = none) ∧
  (∀ s : State, s.pend = none → (writeReg s 0x00000000 .cmd).1.busy = true ∧
    (writeReg s 0x00000000 .cmd).1.status.lastOpc = 0) ∧
  ∀ (s : State) (p : Pending), s.pend = some p → exec .nop s = .next (s.ended .ok 0)

/-- R120: what `gcd_fn` is: the loop's equation, the greatest common divisor, its corner values, symmetry and bound. -/
def Obligations.GcdFnIsGcd : Prop :=
  ∀ a b : Nat,
    gcdFn a b = (if b = 0 then a else gcdFn b (a % b)) ∧
    gcdFn a 0 = a ∧ gcdFn 0 0 = 0 ∧
    gcdFn a b ∣ a ∧ gcdFn a b ∣ b ∧ (∀ d, d ∣ a → d ∣ b → d ∣ gcdFn a b) ∧
    gcdFn a b = gcdFn b a ∧ gcdFn a b ≤ max a b

/-- R125: GCD writes the greatest common divisor of its operands and always succeeds. -/
def Obligations.GcdWritesGcd : Prop :=
  ∀ rd rs1 rs2 : RegIdx,
    (Instr.gcd rd rs1 rs2).fields =
      { opc := 0x01, res1 := 0, rd, rs1, rs2, rs3 := 0, val := false, crt := false, res2 := 0 } ∧
    (∀ s : State, (s.latch (.gcd rd rs1 rs2)).v1 = s.x rs1 ∧ (s.latch (.gcd rd rs1 rs2)).v2 = s.x rs2) ∧
    ∀ (s : State) (p : Pending), s.pend = some p →
      exec (.gcd rd rs1 rs2) s = .next (s.endedWith rd (Nat.gcd p.v1.toNat p.v2.toNat))

/-- R126, R121: MULMOD writes the exact product reduced exactly; a zero modulus is ZERO_MODULUS and writes nothing. -/
def Obligations.MulmodWritesProduct : Prop :=
  ∀ rd rs1 rs2 rs3 : RegIdx,
    (Instr.mulmod rd rs1 rs2 rs3).fields =
      { opc := 0x02, res1 := 0, rd, rs1, rs2, rs3, val := false, crt := false, res2 := 0 } ∧
    (∀ s : State, (s.latch (.mulmod rd rs1 rs2 rs3)).v1 = s.x rs1 ∧ (s.latch (.mulmod rd rs1 rs2 rs3)).v2 = s.x rs2 ∧
      (s.latch (.mulmod rd rs1 rs2 rs3)).v3 = s.x rs3) ∧
    ∀ (s : State) (p : Pending), s.pend = some p →
      (p.v3 = 0 → exec (.mulmod rd rs1 rs2 rs3) s = .next (s.ended .zeroModulus 0)) ∧
      (p.v3 ≠ 0 → exec (.mulmod rd rs1 rs2 rs3) s =
        .next (s.endedWith rd (p.v1.toNat * p.v2.toNat % p.v3.toNat)))

/-- R122, R124: `modpow_fn` is the power reduced by the modulus, for every base, exponent and modulus above 0, and the
laws R124 lists. -/
def Obligations.ModpowFnIsPower : Prop :=
  ∀ b e m : Nat, 0 < m →
    modpowFn b e m = b ^ e % m ∧
    modpowFn b 0 m = 1 % m ∧ modpowFn b e 1 = 0 ∧ modpowFn b 1 m = b % m ∧
    modpowFn (b % m) e m = modpowFn b e m ∧ (0 < e → modpowFn 0 e m = 0)

/-- R127: MODPOW writes `v1^v2 mod v3`; a zero modulus is ZERO_MODULUS and writes nothing. -/
def Obligations.ModpowWritesPower : Prop :=
  ∀ rd rs1 rs2 rs3 : RegIdx,
    (Instr.modpow rd rs1 rs2 rs3).fields =
      { opc := 0x03, res1 := 0, rd, rs1, rs2, rs3, val := false, crt := false, res2 := 0 } ∧
    (∀ s : State, (s.latch (.modpow rd rs1 rs2 rs3)).v1 = s.x rs1 ∧ (s.latch (.modpow rd rs1 rs2 rs3)).v2 = s.x rs2 ∧
      (s.latch (.modpow rd rs1 rs2 rs3)).v3 = s.x rs3) ∧
    ∀ (s : State) (p : Pending), s.pend = some p →
      (p.v3 = 0 → exec (.modpow rd rs1 rs2 rs3) s = .next (s.ended .zeroModulus 0)) ∧
      (p.v3 ≠ 0 → exec (.modpow rd rs1 rs2 rs3) s =
        .next (s.endedWith rd (p.v1.toNat ^ p.v2.toNat % p.v3.toNat)))

/-- R123 (the spec's derived count): the exponentiation loop needs exactly as many rounds as the exponent has bits
(`bitlen` of the rule): that many give the result whatever the other operands, no smaller number does, and 32 do for
every 32-bit exponent. -/
def Obligations.ModpowRoundsAreBits : Prop :=
  ∀ e : Nat,
    (e = 0 → Nat.size e = 0) ∧ (0 < e → Nat.size e = Nat.log2 e + 1) ∧
    (∀ m r b : Nat, modpowLoop m (Nat.size e) r b e = modpowLoop m e r b e) ∧
    (∀ k, k < Nat.size e → ∃ m r b : Nat, modpowLoop m k r b e ≠ modpowLoop m e r b e) ∧
    (e < 2 ^ 32 → Nat.size e ≤ 32 ∧ ∀ m r b : Nat, modpowLoop m 32 r b e = modpowLoop m e r b e)

/-- R171 (2) and (3), with the corner m = 1 of 90_conflicts.md C12: NoInverse exactly when the gcd is above 1;
otherwise the result is the one number below `m` whose product with `e` leaves `1 mod m`. -/
def Obligations.ModinvFnIsInverse : Prop :=
  ∀ e m : Nat, 0 < m →
    (1 < Nat.gcd e m → modinvFn e m = none) ∧
    (Nat.gcd e m = 1 → ∃ d, modinvFn e m = some d ∧ d < m ∧ e * d % m = 1 % m ∧
      ∀ d', d' < m → e * d' % m = 1 % m → d' = d)

/-- R172: MODINV: ZERO_MODULUS first, then NO_INVERSE when the gcd is above 1, both writing no register; else the
inverse below the modulus. -/
def Obligations.ModinvWritesInverse : Prop :=
  ∀ rd rs1 rs2 : RegIdx,
    (Instr.modinv rd rs1 rs2).fields =
      { opc := 0x04, res1 := 0, rd, rs1, rs2, rs3 := 0, val := false, crt := false, res2 := 0 } ∧
    (∀ s : State, (s.latch (.modinv rd rs1 rs2)).v1 = s.x rs1 ∧ (s.latch (.modinv rd rs1 rs2)).v2 = s.x rs2) ∧
    ∀ (s : State) (p : Pending), s.pend = some p →
      (p.v2 = 0 → exec (.modinv rd rs1 rs2) s = .next (s.ended .zeroModulus 0)) ∧
      (p.v2 ≠ 0 → 1 < Nat.gcd p.v1.toNat p.v2.toNat →
        exec (.modinv rd rs1 rs2) s = .next (s.ended .noInverse 0)) ∧
      (p.v2 ≠ 0 → Nat.gcd p.v1.toNat p.v2.toNat = 1 →
        ∃ d, exec (.modinv rd rs1 rs2) s = .next (s.endedWith rd d) ∧ d < p.v2.toNat ∧
          p.v1.toNat * d % p.v2.toNat = 1 % p.v2.toNat)

/-- R151: every draw lies in `[2, n-2]`, and every value of that range is some output's draw. -/
def Obligations.DrawsFillTheirRange : Prop :=
  ∀ n r : Nat, 5 ≤ n →
    (2 ≤ witnessIn n r ∧ witnessIn n r ≤ n - 2) ∧ (2 ≤ r → r ≤ n - 2 → witnessIn n r = r)

/-- R152, R150: PRIME. Below 5 the verdict is decided without a draw; from 5 on it is 1 exactly when every one of the
`wc` draws passes, and the loop stops at the first draw that does not. The draws are free values: the statement holds
for every one of them. -/
def Obligations.PrimeWritesVerdict : Prop :=
  ∀ rd rs1 : RegIdx,
    (Instr.prime rd rs1).fields =
      { opc := 0x05, res1 := 0, rd, rs1, rs2 := 0, rs3 := 0, val := false, crt := false, res2 := 0 } ∧
    (∀ s : State, (s.latch (.prime rd rs1)).v1 = s.x rs1 ∧ (s.latch (.prime rd rs1)).wc = s.ctrl.wcount) ∧
    ∀ (s : State) (p : Pending), s.pend = some p →
      (p.v1.toNat ≤ 1 ∨ p.v1.toNat = 4 → exec (.prime rd rs1) s = .next (s.endedWith rd 0)) ∧
      (p.v1.toNat = 2 ∨ p.v1.toNat = 3 → exec (.prime rd rs1) s = .next (s.endedWith rd 1)) ∧
      (5 ≤ p.v1.toNat →
        (∀ k, k < p.wc.toNat → witnessIn p.v1.toNat (s.raw k) ^ (p.v1.toNat - 1) % p.v1.toNat = 1) →
        exec (.prime rd rs1) s = .next ((s.drew p.wc.toNat).endedWith rd 1)) ∧
      (5 ≤ p.v1.toNat → ∀ k, k < p.wc.toNat →
        (∀ j, j < k → witnessIn p.v1.toNat (s.raw j) ^ (p.v1.toNat - 1) % p.v1.toNat = 1) →
        witnessIn p.v1.toNat (s.raw k) ^ (p.v1.toNat - 1) % p.v1.toNat ≠ 1 →
        exec (.prime rd rs1) s = .next ((s.drew (k + 1)).endedWith rd 0))

/-- R153: for a prime operand PRIME writes 1 for every witness count and every draw. -/
def Obligations.PrimeAcceptsEveryPrime : Prop :=
  ∀ (rd rs1 : RegIdx) (s : State) (p : Pending), s.pend = some p → Nat.Prime p.v1.toNat →
    exec (.prime rd rs1) s = .next ((s.drew (if p.v1.toNat ≤ 3 then 0 else p.wc.toNat)).endedWith rd 1)

/-- R154, 93_implementation_defined.md I2: the verdict on a composite is no function of the operand: with at least one
round, 15 is accepted under some draws (the liars 4 and 11) and refused under others, whatever the rest of the state. -/
def Obligations.PrimeVerdictDependsOnDraws : Prop :=
  ∀ (rd rs1 : RegIdx) (s : State) (p : Pending), s.pend = some p → p.v1 = 15 → p.wc ≠ 0 →
    ∃ (a b : List Nat) (t u : State),
      exec (.prime rd rs1) { s with env := { s.env with supply := a } } = .next t ∧ t.x rd = 1 ∧
      exec (.prime rd rs1) { s with env := { s.env with supply := b } } = .next u ∧ u.x rd = 0

/-- R192: the search finds the least odd number from 3 on that is below `phi` and coprime to it, and nothing exactly
when there is none, as for every `phi` up to 3. -/
def Obligations.SearchFindsLeastExponent : Prop :=
  ∀ phi : Nat,
    (∀ e, searchE phi = some e ↔ Searched phi e ∧ ∀ e', Searched phi e' → e ≤ e') ∧
    (searchE phi = none ↔ ∀ e, ¬ Searched phi e) ∧ (phi ≤ 3 → searchE phi = none)

/-- R197, R198: how both derivations complete: when `key_derive_fn` (R191) returns a key, all ten registers take it,
KEY_VALID is 1 and CRT_VALID is the command's flag; when it raises, the key file and both flags are cleared and the
error is recorded. No general register is written. -/
def Obligations.DerivationWritesOrClears : Prop :=
  ∀ (rs1 rs2 rs3 : RegIdx) (val crt : Bool) (s : State) (p : Pending), s.pend = some p →
    (∀ (k : KeyFile) (used : Nat),
      keyDeriveFn p.v1.toNat p.v2.toNat p.v3.toNat false val crt p.wc.toNat s.raw = (.ok k, used) →
      exec (.keygen rs1 rs2 rs3 val crt) s = .next ((s.drew used).endedWithKey k crt)) ∧
    (∀ (r : Raised) (used : Nat),
      keyDeriveFn p.v1.toNat p.v2.toNat p.v3.toNat false val crt p.wc.toNat s.raw = (.error r, used) →
      exec (.keygen rs1 rs2 rs3 val crt) s = .next ((s.drew used).endedCleared r.code r.info)) ∧
    (∀ (k : KeyFile) (used : Nat),
      keyDeriveFn p.v1.toNat p.v2.toNat 0 true val crt p.wc.toNat s.raw = (.ok k, used) →
      exec (.keygena rs1 rs2 val crt) s = .next ((s.drew used).endedWithKey k crt)) ∧
    (∀ (r : Raised) (used : Nat),
      keyDeriveFn p.v1.toNat p.v2.toNat 0 true val crt p.wc.toNat s.raw = (.error r, used) →
      exec (.keygena rs1 rs2 val crt) s = .next ((s.drew used).endedCleared r.code r.info))

/-- R194, R191, R197: KEYGEN on operands that pass every check writes a whole key that meets R25, with the operator's
`e`, in one step, and no general register. -/
def Obligations.KeygenDerivesKey : Prop :=
  ∀ (rs1 rs2 rs3 : RegIdx) (val crt : Bool),
    (Instr.keygen rs1 rs2 rs3 val crt).fields =
      { opc := 0x06, res1 := 0, rd := 0, rs1, rs2, rs3, val, crt, res2 := 0 } ∧
    ∀ (s : State) (p : Pending) (used : Nat), s.pend = some p →
      PrimesAccepted val p.v1.toNat p.v2.toNat p.wc.toNat s.raw used →
      p.v1 ≠ p.v2 → p.v1.toNat * p.v2.toNat ≤ 2 ^ 32 - 1 →
      1 < p.v3.toNat → p.v3.toNat < (p.v1.toNat - 1) * (p.v2.toNat - 1) →
      Nat.gcd p.v3.toNat ((p.v1.toNat - 1) * (p.v2.toNat - 1)) = 1 →
      (crt = true → Nat.gcd p.v1.toNat p.v2.toNat = 1) →
      ∃ k : KeyFile,
        exec (.keygen rs1 rs2 rs3 val crt) s = .next ((s.drew used).endedWithKey k crt) ∧
        k.p = p.v1 ∧ k.q = p.v2 ∧ k.e = p.v3 ∧ k.Holds ∧ (crt = true → k.CrtHolds) ∧
        (crt = false → k.dp = 0 ∧ k.dq = 0 ∧ k.qinv = 0 ∧ k.pinv = 0)

/-- R195, R191, R192, R197: KEYGENA does the same with the least odd exponent from 3 on, where there is one. -/
def Obligations.KeygenaDerivesKey : Prop :=
  ∀ (rs1 rs2 : RegIdx) (val crt : Bool),
    (Instr.keygena rs1 rs2 val crt).fields =
      { opc := 0x07, res1 := 0, rd := 0, rs1, rs2, rs3 := 0, val, crt, res2 := 0 } ∧
    ∀ (s : State) (p : Pending) (used e : Nat), s.pend = some p →
      PrimesAccepted val p.v1.toNat p.v2.toNat p.wc.toNat s.raw used →
      p.v1 ≠ p.v2 → p.v1.toNat * p.v2.toNat ≤ 2 ^ 32 - 1 →
      Searched ((p.v1.toNat - 1) * (p.v2.toNat - 1)) e →
      (∀ e', Searched ((p.v1.toNat - 1) * (p.v2.toNat - 1)) e' → e ≤ e') →
      (crt = true → Nat.gcd p.v1.toNat p.v2.toNat = 1) →
      ∃ k : KeyFile,
        exec (.keygena rs1 rs2 val crt) s = .next ((s.drew used).endedWithKey k crt) ∧
        k.p = p.v1 ∧ k.q = p.v2 ∧ k.e.toNat = e ∧ k.Holds ∧ (crt = true → k.CrtHolds) ∧
        (crt = false → k.dp = 0 ∧ k.dq = 0 ∧ k.qinv = 0 ∧ k.pinv = 0)

/-- R191 step 1, R198, R303: where a prime is refused, both derivations clear the key file and end with NOT_PRIME,
ERR_INFO 1 for `p`, looked at first, and 2 for `q`. -/
def Obligations.RefusedPrimesClearTheKey : Prop :=
  ∀ (rs1 rs2 rs3 : RegIdx) (val crt : Bool) (s : State) (p : Pending) (i : Instr), s.pend = some p →
    (i = .keygen rs1 rs2 rs3 val crt ∨ i = .keygena rs1 rs2 val crt) →
    (val = false → p.v1.toNat < 2 → exec i s = .next (s.endedCleared .notPrime 1)) ∧
    (val = false → 2 ≤ p.v1.toNat → p.v2.toNat < 2 → exec i s = .next (s.endedCleared .notPrime 2)) ∧
    (val = true → ∀ used, fermatFn p.v1.toNat p.wc.toNat s.raw 0 = (false, used) →
      exec i s = .next ((s.drew used).endedCleared .notPrime 1)) ∧
    (val = true → ∀ first used, fermatFn p.v1.toNat p.wc.toNat s.raw 0 = (true, first) →
      fermatFn p.v2.toNat p.wc.toNat s.raw first = (false, used) →
      exec i s = .next ((s.drew used).endedCleared .notPrime 2))

/-- R191 steps 2 to 6, R198, R303: with both primes accepted, the first check that fails decides the error of either
derivation, and the key file is cleared. -/
def Obligations.LaterChecksClearTheKey : Prop :=
  ∀ (rs1 rs2 rs3 : RegIdx) (val crt : Bool) (s : State) (p : Pending) (used : Nat), s.pend = some p →
    PrimesAccepted val p.v1.toNat p.v2.toNat p.wc.toNat s.raw used →
    (p.v1 = p.v2 →
      exec (.keygen rs1 rs2 rs3 val crt) s = .next ((s.drew used).endedCleared .equalPrimes 0) ∧
      exec (.keygena rs1 rs2 val crt) s = .next ((s.drew used).endedCleared .equalPrimes 0)) ∧
    (p.v1 ≠ p.v2 → 2 ^ 32 - 1 < p.v1.toNat * p.v2.toNat →
      exec (.keygen rs1 rs2 rs3 val crt) s = .next ((s.drew used).endedCleared .operandOverflow 0) ∧
      exec (.keygena rs1 rs2 val crt) s = .next ((s.drew used).endedCleared .operandOverflow 0)) ∧
    (p.v1 ≠ p.v2 → p.v1.toNat * p.v2.toNat ≤ 2 ^ 32 - 1 →
      (p.v3.toNat ≤ 1 ∨ (p.v1.toNat - 1) * (p.v2.toNat - 1) ≤ p.v3.toNat ∨
        Nat.gcd p.v3.toNat ((p.v1.toNat - 1) * (p.v2.toNat - 1)) ≠ 1) →
      exec (.keygen rs1 rs2 rs3 val crt) s = .next ((s.drew used).endedCleared .invalidPublicExponent 0)) ∧
    (p.v1 ≠ p.v2 → p.v1.toNat * p.v2.toNat ≤ 2 ^ 32 - 1 →
      (∀ e, ¬ Searched ((p.v1.toNat - 1) * (p.v2.toNat - 1)) e) →
      exec (.keygena rs1 rs2 val crt) s = .next ((s.drew used).endedCleared .noValidExponent 0)) ∧
    (p.v1 ≠ p.v2 → p.v1.toNat * p.v2.toNat ≤ 2 ^ 32 - 1 → crt = true → 1 < Nat.gcd p.v1.toNat p.v2.toNat →
      (1 < p.v3.toNat → p.v3.toNat < (p.v1.toNat - 1) * (p.v2.toNat - 1) →
        Nat.gcd p.v3.toNat ((p.v1.toNat - 1) * (p.v2.toNat - 1)) = 1 →
        exec (.keygen rs1 rs2 rs3 val crt) s = .next ((s.drew used).endedCleared .noInverse 0)) ∧
      ((∃ e, Searched ((p.v1.toNat - 1) * (p.v2.toNat - 1)) e) →
        exec (.keygena rs1 rs2 val crt) s = .next ((s.drew used).endedCleared .noInverse 0)))

/-- R199: NO_INVERSE at step 5 is unreachable, so a key derivation that ends with NO_INVERSE had CRT = 1 and operands
with a common factor. -/
def Obligations.NoInverseOnlyFromCrt : Prop :=
  (∀ (p q eIn e : Nat) (auto : Bool), chooseE eIn auto ((p - 1) * (q - 1)) = .ok e →
    modinvFn e ((p - 1) * (q - 1)) ≠ none) ∧
  (∀ (s t : State) (p : Pending) (i : Instr), s.pend = some p → i.derivesKey = true → exec i s = .next t →
    t.status.err = .noInverse → i.fields.crt = true ∧ 1 < Nat.gcd p.v1.toNat p.v2.toNat)

/-- R196: CLRKEY clears the ten key registers and both validity flags, with OK, and writes nothing else. -/
def Obligations.ClrkeyClears : Prop :=
  (∀ w : Word, decode w = some .clrkey ↔ w = 0x0000000B) ∧
    ∀ (s : State) (p : Pending), s.pend = some p → exec .clrkey s = .next (s.endedCleared .ok 0)

/-- R230: ENCRYPT: NO_KEY without a key; else `v1^KE mod KN`, a message at or above KN being no error. The premise
KN ≠ 0 holds of every valid key (`ValidModulusIsAtLeastSix`). -/
def Obligations.EncryptWritesPower : Prop :=
  ∀ rd rs1 : RegIdx,
    (Instr.encrypt rd rs1).fields =
      { opc := 0x08, res1 := 0, rd, rs1, rs2 := 0, rs3 := 0, val := false, crt := false, res2 := 0 } ∧
    (∀ s : State, (s.latch (.encrypt rd rs1)).v1 = s.x rs1) ∧
    ∀ (s : State) (p : Pending), s.pend = some p →
      (s.status.keyValid = false → exec (.encrypt rd rs1) s = .next (s.ended .noKey 0)) ∧
      (s.status.keyValid = true → s.key.n ≠ 0 →
        exec (.encrypt rd rs1) s = .next (s.endedWith rd (p.v1.toNat ^ s.key.e.toNat % s.key.n.toNat)))

/-- The inference of R230 from R25: a valid key has `KN >= 6`, and its two primes are above 1, so no modulus a cipher
command meets is 0. -/
def Obligations.ValidModulusIsAtLeastSix : Prop :=
  ∀ s : State, s.KeyInv → s.status.keyValid = true →
    6 ≤ s.key.n.toNat ∧ s.key.p ≠ 0 ∧ s.key.q ≠ 0 ∧ 2 ≤ s.key.phi.toNat

/-- R231: DECRYPT: NO_KEY without a key; else `v1^KD mod KN`. -/
def Obligations.DecryptWritesPower : Prop :=
  ∀ rd rs1 : RegIdx,
    (Instr.decrypt rd rs1).fields =
      { opc := 0x09, res1 := 0, rd, rs1, rs2 := 0, rs3 := 0, val := false, crt := false, res2 := 0 } ∧
    (∀ s : State, (s.latch (.decrypt rd rs1)).v1 = s.x rs1) ∧
    ∀ (s : State) (p : Pending), s.pend = some p →
      (s.status.keyValid = false → exec (.decrypt rd rs1) s = .next (s.ended .noKey 0)) ∧
      (s.status.keyValid = true → s.key.n ≠ 0 →
        exec (.decrypt rd rs1) s = .next (s.endedWith rd (p.v1.toNat ^ s.key.d.toNat % s.key.n.toNat)))

/-- R233, R232: DECCRT: NO_KEY without CRT parameters, even if a key is held; else Garner's combination of the two
residues, `m1 - m2` taken over the integers. -/
def Obligations.DeccrtWritesGarner : Prop :=
  ∀ rd rs1 : RegIdx,
    (Instr.deccrt rd rs1).fields =
      { opc := 0x0A, res1 := 0, rd, rs1, rs2 := 0, rs3 := 0, val := false, crt := false, res2 := 0 } ∧
    (∀ s : State, (s.latch (.deccrt rd rs1)).v1 = s.x rs1) ∧
    ∀ (s : State) (p : Pending), s.pend = some p →
      (s.status.crtValid = false → exec (.deccrt rd rs1) s = .next (s.ended .noKey 0)) ∧
      (s.status.crtValid = true → s.key.p ≠ 0 → s.key.q ≠ 0 → ∀ m1 m2 h : Nat,
        m1 = p.v1.toNat ^ s.key.dp.toNat % s.key.p.toNat →
        m2 = p.v1.toNat ^ s.key.dq.toNat % s.key.q.toNat →
        (h : Int) = (s.key.qinv.toNat : Int) * (((m1 : Int) - m2) % s.key.p.toNat) % s.key.p.toNat →
        exec (.deccrt rd rs1) s = .next (s.endedWith rd (m2 + h * s.key.q.toNat)))

/-- R232: with `(q · qInv) mod p = 1` Garner's result is the one number below `p·q` that leaves `c^dp` modulo `p` and
`c^dq` modulo `q`. -/
def Obligations.GarnerIsTheCrtSolution : Prop :=
  ∀ c p q dp dq qinv : Nat, 1 < p → 0 < q → q * qinv % p = 1 → ∀ m : Nat,
    m = crtDecryptFn c p q dp dq qinv ↔ m < p * q ∧ m % p = c ^ dp % p ∧ m % q = c ^ dq % q

/-- R200: the round trip. With a key that meets R25 and has prime `KP` and `KQ`, decrypting what ENCRYPT wrote for a
message below KN writes the message again. -/
def Obligations.DecryptionInvertsEncryption : Prop :=
  ∀ (rd rs1 rd' rs1' : RegIdx) (s t u : State) (p p' : Pending),
    s.KeyInv → s.status.keyValid = true → Nat.Prime s.key.p.toNat → Nat.Prime s.key.q.toNat →
    s.pend = some p → p.v1.toNat < s.key.n.toNat → exec (.encrypt rd rs1) s = .next t →
    u.key = t.key → u.status.keyValid = true → u.pend = some p' → p'.v1 = t.x rd →
    exec (.decrypt rd' rs1') u = .next (u.endedWith rd' p.v1.toNat)

/-- R234: with CRT parameters and distinct primes of at least 3, DECCRT and DECRYPT end in the same state for every
ciphertext; and they differ for `p = 2`, as the rule's example shows. -/
def Obligations.CrtDecryptionEqualsDirect : Prop :=
  (∀ (rd rs1 : RegIdx) (s : State) (p : Pending),
    s.KeyInv → s.status.crtValid = true → Nat.Prime s.key.p.toNat → Nat.Prime s.key.q.toNat →
    3 ≤ s.key.p.toNat → 3 ≤ s.key.q.toNat → s.pend = some p →
    exec (.deccrt rd rs1) s = exec (.decrypt rd rs1) s) ∧
  (∀ (rd rs1 : RegIdx) (s : State) (p : Pending), s.status.crtValid = true → s.status.keyValid = true →
    s.key = { p := 2, q := 5, e := 3, n := 10, phi := 4, d := 3, dp := 0, dq := 3, qinv := 1, pinv := 3 } →
    s.pend = some p → p.v1 = 4 →
    exec (.decrypt rd rs1) s = .next (s.endedWith rd 4) ∧ exec (.deccrt rd rs1) s = .next (s.endedWith rd 9))

/-! ### All commands -/

/-- The frame of every command (R21, R34, R101, R104, R151): what a completion leaves as it was. -/
def Obligations.CompletionFrame : Prop :=
  ∀ (i : Instr) (s t : State), exec i s = .next t →
    t.pend = none ∧ t.status.done = true ∧
    t.ctrl = s.ctrl ∧ t.cmd = s.cmd ∧ t.status.lastOpc = s.status.lastOpc ∧ t.status.wrBusy = s.status.wrBusy ∧
    t.status.accErr = s.status.accErr ∧ t.env.bus = s.env.bus ∧ t.env.resp = s.env.resp ∧
    t.env.resetIn = s.env.resetIn ∧
    (∀ r : RegIdx, r ≠ i.fields.rd → t.x r = s.x r) ∧
    (i.derivesKey = true ∨ i = .clrkey ∨ i = .nop → t.g = s.g) ∧
    (i.derivesKey = false → i ≠ .clrkey →
      t.key = s.key ∧ t.status.keyValid = s.status.keyValid ∧ t.status.crtValid = s.status.crtValid) ∧
    (i.draws = false → t.env = s.env)

/-- R301: a completion with an error writes no general register; a key derivation's also clears the key file and both
validity flags, and no other command's touches them: the state is the one before but for the report. -/
def Obligations.ErrorsWriteNoRegister : Prop :=
  ∀ (i : Instr) (s t : State), exec i s = .next t → t.status.err ≠ .ok →
    t.g = s.g ∧
    (i.derivesKey = false → t = s.ended t.status.err t.status.errInfo) ∧
    (i.derivesKey = true → ∃ k, t = (s.drew k).endedCleared t.status.err t.status.errInfo)

/-- R300, R303: the number of every code, as a read of STATUS shows it in bits 11:8, the reserved numbers never; which
command writes which code; and ERR_INFO: 1 or 2 with NOT_PRIME, 0 with every other code. -/
def Obligations.ErrorCodesByCommand : Prop :=
  (∀ s : State,
    (s.status.err = .ok → s.statusWord.extractLsb' 8 4 = 0x0) ∧
    (s.status.err = .notPrime → s.statusWord.extractLsb' 8 4 = 0x1) ∧
    (s.status.err = .invalidPublicExponent → s.statusWord.extractLsb' 8 4 = 0x2) ∧
    (s.status.err = .noValidExponent → s.statusWord.extractLsb' 8 4 = 0x3) ∧
    (s.status.err = .noInverse → s.statusWord.extractLsb' 8 4 = 0x4) ∧
    (s.status.err = .operandOverflow → s.statusWord.extractLsb' 8 4 = 0x5) ∧
    (s.status.err = .zeroModulus → s.statusWord.extractLsb' 8 4 = 0x6) ∧
    (s.status.err = .equalPrimes → s.statusWord.extractLsb' 8 4 = 0x7) ∧
    (s.status.err = .noKey → s.statusWord.extractLsb' 8 4 = 0x8) ∧
    (s.status.err = .illegalCommand → s.statusWord.extractLsb' 8 4 = 0x9) ∧
    (s.statusWord.extractLsb' 8 4).toNat ≤ 0x9) ∧
  ∀ (i : Instr) (s t : State), exec i s = .next t →
    i.mayReport t.status.err = true ∧
    (t.status.err = .notPrime → t.status.errInfo = 1 ∨ t.status.errInfo = 2) ∧
    (t.status.err ≠ .notPrime → t.status.errInfo = 0)

/-- R24: only a completion of KEYGEN, KEYGENA or CLRKEY, a soft reset and the reset input change the key file; a host
write to it is refused and changes only ACC_ERR. -/
def Obligations.OnlyFourEventsWriteTheKey : Prop :=
  (∀ s t : State, step s = .next t → t.key ≠ s.key →
    (∃ p, s.ready = some p ∧ (p.instr.derivesKey = true ∨ p.instr = .clrkey) ∧
      (s.env.bus = [] ∨ ∃ rest, s.env.bus = .engine :: rest)) ∨
    (∃ e rest, s.env.bus = e :: rest ∧ (e.isSoftReset = true ∨ e = .assertReset))) ∧
  (∀ (k : KeyReg) (size : Nat) (v : Word) (s : State),
    hostWrite (Reg.key k).offset size v s = s.flagAccess.respond (.write true))

/-- R25: the key-file invariants hold after reset and every step keeps them, from every state that meets them. -/
def Obligations.StepKeepsKeyInvariants : Prop :=
  State.reset.KeyInv ∧ ∀ s t : State, s.KeyInv → step s = .next t → t.KeyInv

/-- R32, R21, R22, R30, R311, R342: the control invariants hold after reset. -/
def Obligations.ResetMeetsControlInvariants : Prop := State.reset.ControlInv

/-- R32, R21, R22, R30, R311, R342: every step keeps the control invariants: while a command is pending, CMD holds
its word, the source registers hold the latched values and DONE is 0; LAST_OPC is CMD's opcode; ERR_INFO is 0 but for
NOT_PRIME; and while the reset input is asserted every register is at its reset value. -/
def Obligations.StepKeepsControlInvariants : Prop :=
  ∀ s t : State, s.ControlInv → step s = .next t → t.ControlInv

/-- R34, with R105: a command other than the three cipher commands reads no flag and no key register: with any other
key file and any other STATUS it writes the same registers, the same report and takes the same draws. -/
def Obligations.OnlyCipherReadsKeyAndFlags : Prop :=
  ∀ (i : Instr) (s t u : State) (k : KeyFile) (st : Status), i.readsKey = false →
    exec i s = .next t → exec i { s with key := k, status := st } = .next u →
    u.g = t.g ∧ u.status.err = t.status.err ∧ u.status.errInfo = t.status.errInfo ∧ u.env = t.env ∧
    (i.derivesKey = true → u.key = t.key ∧ u.status.keyValid = t.status.keyValid ∧
      u.status.crtValid = t.status.crtValid)

/-! ### The host's side -/

/-- R61: the map: which register is at which offset, no register at two offsets, and none at a reserved or
misaligned one. -/
def Obligations.RegisterMapIsExact : Prop :=
  regAt 0x00 = some .id ∧ regAt 0x04 = some .version ∧ regAt 0x08 = some .ctrl ∧ regAt 0x0C = some .status ∧
  regAt 0x10 = some .cmd ∧ (∀ i : RegIdx, regAt (BitVec.ofNat 8 (0x40 + 4 * i.toNat)) = some (.g i)) ∧
  regAt 0x80 = some (.key .kp) ∧ regAt 0x84 = some (.key .kq) ∧ regAt 0x88 = some (.key .ke) ∧
  regAt 0x8C = some (.key .kn) ∧ regAt 0x90 = some (.key .kphi) ∧ regAt 0x94 = some (.key .kd) ∧
  regAt 0x98 = some (.key .kdp) ∧ regAt 0x9C = some (.key .kdq) ∧ regAt 0xA0 = some (.key .kqinv) ∧
  regAt 0xA4 = some (.key .kpinv) ∧
  ∀ off : BitVec 8,
    ((regAt off).isSome = true ↔
      off.toNat % 4 = 0 ∧ (off.toNat < 0x14 ∨ (0x40 ≤ off.toNat ∧ off.toNat < 0xA8))) ∧
    ∀ r : Reg, regAt off = some r → r.offset = off

/-- R62: which accesses are refused (size, alignment, reserved offset, and a write to ID, VERSION or the key file) and
what a refused one does; every other read is answered, and a write to STATUS or CTRL is never refused for its value, its
reserved and read-only bits being ignored. -/
def Obligations.RefusedAccesses : Prop :=
  ∀ (off : BitVec 8) (size : Nat) (v : Word) (s : State),
    (size ≠ 4 ∨ off.toNat % 4 ≠ 0 ∨ (0x14 ≤ off.toNat ∧ off.toNat < 0x40) ∨ 0xA8 ≤ off.toNat →
      hostRead off size s = { s with
        status := { s.status with accErr := true }, env := { s.env with resp := some (.read 0 true) } } ∧
      hostWrite off size v s = { s with
        status := { s.status with accErr := true }, env := { s.env with resp := some (.write true) } }) ∧
    (off = 0x00 ∨ off = 0x04 ∨ (0x80 ≤ off.toNat ∧ off.toNat < 0xA8) →
      hostWrite off size v s = { s with
        status := { s.status with accErr := true }, env := { s.env with resp := some (.write true) } }) ∧
    (size = 4 → off.toNat % 4 = 0 → off.toNat < 0x14 ∨ (0x40 ≤ off.toNat ∧ off.toNat < 0xA8) →
      ∃ d, hostRead off size s = { s with env := { s.env with resp := some (.read d false) } }) ∧
    (size = 4 → off = 0x08 ∨ off = 0x0C → (hostWrite off size v s).env.resp = some (.write false)) ∧
    hostWrite 0x08 4 v s = hostWrite 0x08 4 (v &&& 0x0000FF03) s ∧
    hostWrite 0x0C 4 v s = hostWrite 0x0C 4 (v &&& 0x00000032) s

/-- R63 (with the layouts of R28 and R29, reserved bits 0): what each mapped register reads as, whether or not a
command is pending; a read changes nothing (but the response the host receives), except a refused one setting
ACC_ERR. The numbers of the error codes in bits 11:8 are stated by `ErrorCodesByCommand` too. -/
def Obligations.ReadsReturnRegisters : Prop :=
  ∀ s : State,
    (∀ (off : BitVec 8) (n : Nat),
      n ≠ 4 ∨ off.toNat % 4 ≠ 0 ∨ (0x14 ≤ off.toNat ∧ off.toNat < 0x40) ∨ 0xA8 ≤ off.toNat →
      hostRead off n s = s.flagAccess.respond (.read 0 true)) ∧
    hostRead 0x00 4 s = s.respond (.read 0x52534145 false) ∧ hostRead 0x04 4 s = s.respond (.read 0x00000001 false) ∧
    hostRead 0x08 4 s = s.respond (.read s.ctrl.word false) ∧ hostRead 0x0C 4 s = s.respond (.read s.statusWord false) ∧
    hostRead 0x10 4 s = s.respond (.read s.cmd false) ∧
    (∀ i : RegIdx, hostRead (BitVec.ofNat 8 (0x40 + 4 * i.toNat)) 4 s = s.respond (.read (s.x i) false)) ∧
    hostRead 0x80 4 s = s.respond (.read s.key.p false) ∧ hostRead 0x84 4 s = s.respond (.read s.key.q false) ∧
    hostRead 0x88 4 s = s.respond (.read s.key.e false) ∧ hostRead 0x8C 4 s = s.respond (.read s.key.n false) ∧
    hostRead 0x90 4 s = s.respond (.read s.key.phi false) ∧ hostRead 0x94 4 s = s.respond (.read s.key.d false) ∧
    hostRead 0x98 4 s = s.respond (.read s.key.dp false) ∧ hostRead 0x9C 4 s = s.respond (.read s.key.dq false) ∧
    hostRead 0xA0 4 s = s.respond (.read s.key.qinv false) ∧ hostRead 0xA4 4 s = s.respond (.read s.key.pinv false) ∧
    s.statusWord.getLsbD 0 = s.pend.isSome ∧ s.statusWord.getLsbD 1 = s.status.done ∧
    s.statusWord.getLsbD 2 = s.status.keyValid ∧ s.statusWord.getLsbD 3 = s.status.crtValid ∧
    s.statusWord.getLsbD 4 = s.status.wrBusy ∧ s.statusWord.getLsbD 5 = s.status.accErr ∧
    s.statusWord.extractLsb' 6 2 = 0 ∧
    s.statusWord.extractLsb' 8 4 =
      (match s.status.err with
        | .ok => 0x0
        | .notPrime => 0x1
        | .invalidPublicExponent => 0x2
        | .noValidExponent => 0x3
        | .noInverse => 0x4
        | .operandOverflow => 0x5
        | .zeroModulus => 0x6
        | .equalPrimes => 0x7
        | .noKey => 0x8
        | .illegalCommand => 0x9) ∧
    s.statusWord.extractLsb' 12 4 = s.status.errInfo ∧ s.statusWord.extractLsb' 16 6 = s.status.lastOpc ∧
    s.statusWord.extractLsb' 22 10 = 0 ∧
    s.ctrl.word.getLsbD 0 = s.ctrl.irqEn ∧ s.ctrl.word.getLsbD 1 = false ∧ s.ctrl.word.extractLsb' 2 6 = 0 ∧
    s.ctrl.word.extractLsb' 8 8 = s.ctrl.wcount ∧ s.ctrl.word.extractLsb' 16 16 = 0

/-- R64: what a host write does: refused, a soft reset, CTRL, STATUS, CMD and a general register, idle and busy (a
dropped write is answered ok). `issue` is stated by `IssueLatchesOrRefuses`. -/
def Obligations.WritesUpdateRegisters : Prop :=
  ∀ (v : Word) (s : State),
    (∀ (off : BitVec 8) (n : Nat),
      n ≠ 4 ∨ off.toNat % 4 ≠ 0 ∨ (0x14 ≤ off.toNat ∧ off.toNat < 0x40) ∨ 0xA8 ≤ off.toNat ∨ off = 0x00 ∨ off = 0x04 ∨
        (0x80 ≤ off.toNat ∧ off.toNat < 0xA8) →
      hostWrite off n v s = s.flagAccess.respond (.write true)) ∧
    (v.getLsbD 1 = true → hostWrite 0x08 4 v s = s.resetRegs.respond (.write false)) ∧
    (v.getLsbD 1 = false → hostWrite 0x08 4 v s =
      { s with
        ctrl := { irqEn := v.getLsbD 0, wcount := v.extractLsb' 8 8 }, env := { s.env with resp := some (.write false) } }) ∧
    hostWrite 0x0C 4 v s =
      { s with
        status := { s.status with
          done := if v.getLsbD 1 then false else s.status.done
          wrBusy := if v.getLsbD 4 then false else s.status.wrBusy
          accErr := if v.getLsbD 5 then false else s.status.accErr }
        env := { s.env with resp := some (.write false) } } ∧
    (s.pend ≠ none → hostWrite 0x10 4 v s = s.flagBusyWrite.respond (.write false)) ∧
    (s.pend = none → hostWrite 0x10 4 v s = (issue v s).respond (.write false)) ∧
    (∀ i : RegIdx,
      (s.pend ≠ none →
        hostWrite (BitVec.ofNat 8 (0x40 + 4 * i.toNat)) 4 v s = s.flagBusyWrite.respond (.write false)) ∧
      (s.pend = none → ∃ t, hostWrite (BitVec.ofNat 8 (0x40 + 4 * i.toNat)) 4 v s = t ∧ t.x i = v ∧
        (∀ j, j ≠ i → t.x j = s.x j) ∧ t = { s with g := t.g, env := { s.env with resp := some (.write false) } }))

/-- R36: the value of every register after reset, and the two constants. -/
def Obligations.ResetValues : Prop :=
  (∀ i : RegIdx, State.reset.x i = 0) ∧ (∀ k : KeyReg, State.reset.key.read k = 0) ∧
  State.reset.ctrl.word = 0x00000500 ∧ State.reset.statusWord = 0x00000000 ∧ State.reset.cmd = 0x00000000 ∧
  State.reset.pend = none ∧ State.reset.irq = false ∧
  readReg State.reset .id = 0x52534145 ∧ readReg State.reset .version = 0x00000001

/-- R340, R341: a soft-reset write and the assertion of the reset input give every register its reset value in one
step, whatever is pending, and they have it at the release too; nothing is pending, so the aborted command's
completion never happens, no draw of it is consumed, and the write is answered ok. That the registers are reset in
the assertion step itself is the model's reading, log 3 (DEDUCED); R340 says only "asserted, then released". -/
def Obligations.BothResetsClearEverything : Prop :=
  ∀ s : State,
    (∃ t u, stepEvent .assertReset s = .next t ∧ t.RegistersReset ∧
      t.env.supply = s.env.supply ∧ t.env.drawn = s.env.drawn ∧
      stepEvent .releaseReset t = .next u ∧ u.RegistersReset ∧ u.env.resetIn = false) ∧
    (s.env.resetIn = false → ∀ e : Event, e.isSoftReset = true →
      ∃ t, stepEvent e s = .next t ∧ t.RegistersReset ∧
        t.env.supply = s.env.supply ∧ t.env.drawn = s.env.drawn ∧ t.env.resp = some (.write false))

/-- R342 with the model's reading of it (log 3): while the reset input is asserted the sequencer performs no step and
a host access has none; release changes nothing else. -/
def Obligations.ResetInputHoldsTheEngine : Prop :=
  ∀ s : State,
    (s.env.resetIn = true → stepEvent .engine s = .next s ∧
      ∀ e : Event, e.isAccess = true → stepEvent e s = .fault .accessDuringReset) ∧
    stepEvent .releaseReset s = .next { s with env := { s.env with resetIn := false } }

/-- R310, with log 3's reading of the reset input (DEDUCED): `irq` is DONE and IRQ_EN: it is IRQ_EN after every completion and every illegal issue, falls with a legal
issue, with a W1C of DONE, with IRQ_EN cleared and with either reset, and rises when IRQ_EN is set while DONE = 1; an
access refused by any of R62's conditions leaves it. That `irq` falls in the assertion step of the reset input, and
not only by its release, is log 3. -/
def Obligations.InterruptLevel : Prop :=
  ∀ s : State,
    s.irq = (s.status.done && s.ctrl.irqEn) ∧
    (∀ (i : Instr) (t : State), exec i s = .next t → t.irq = s.ctrl.irqEn) ∧
    (∀ w : Word, decode w = none → (issue w s).irq = s.ctrl.irqEn) ∧
    (∀ w : Word, (decode w).isSome = true → (issue w s).irq = false) ∧
    (∀ v : Word, v.getLsbD 1 = true → (hostWrite 0x0C 4 v s).irq = false) ∧
    (∀ v : Word, v.getLsbD 1 = false → (hostWrite 0x08 4 v s).irq = (s.status.done && v.getLsbD 0)) ∧
    s.resetRegs.irq = false ∧ s.assertReset.irq = false ∧ s.assertReset.releaseReset.irq = false ∧
    (∀ (off : BitVec 8) (n : Nat) (v : Word),
      (n ≠ 4 ∨ off.toNat % 4 ≠ 0 ∨ (0x14 ≤ off.toNat ∧ off.toNat < 0x40) ∨ 0xA8 ≤ off.toNat →
        (hostRead off n s).irq = s.irq ∧ (hostWrite off n v s).irq = s.irq) ∧
      (off = 0x00 ∨ off = 0x04 ∨ (0x80 ≤ off.toNat ∧ off.toNat < 0xA8) → (hostWrite off n v s).irq = s.irq))

/-- R66: lane `k` carries bits `8k+7 .. 8k`, lane 0 the least significant byte, and the four lanes are the word. -/
def Obligations.ByteLanesAreLittleEndian : Prop :=
  ∀ v : Word,
    ofLanes (busLane v 0) (busLane v 1) (busLane v 2) (busLane v 3) = v ∧
    ∀ k, k < 4 → (busLane v k).toNat = v.toNat / 2 ^ (8 * k) % 256

/-- R60, R65: for every base, the window's 256 byte addresses, and only they, reach the engine, each at its offset;
the base is a multiple of 256. -/
def Obligations.WindowAddresses : Prop :=
  Config.engineBase % 256 = 0 ∧
  (∀ (off : BitVec 8) (n : Nat) (v : Word),
    memRead (Config.engineBase + off.toNat) n = some (.read off n) ∧
    memWrite (Config.engineBase + off.toNat) n v = some (.write off n v)) ∧
  ∀ (addr n : Nat) (v : Word), addr < Config.engineBase ∨ Config.engineBase + 256 ≤ addr →
    memRead addr n = none ∧ memWrite addr n v = none

/-- R344, R353, R302: a host that keeps its duties never sets WR_BUSY or ACC_ERR, and an access that breaks them sets
one of the two, changing neither the report nor a pending command. -/
def Obligations.DutifulHostIsNeverFlagged : Prop :=
  ∀ (s t : State) (e : Event), stepEvent e s = .next t →
    (e.dutiful s = true → (t.status.wrBusy = true → s.status.wrBusy = true) ∧
      (t.status.accErr = true → s.status.accErr = true)) ∧
    (e.dutiful s = false → (t.status.wrBusy = true ∨ t.status.accErr = true) ∧
      t.status.err = s.status.err ∧ t.status.done = s.status.done ∧ t.pend = s.pend ∧ t.g = s.g ∧ t.key = s.key)

/-! ### The Fermat test, and the end of a run -/

/-- R150: what `fermat_fn` answers, for every number, witness count and random source, its draws being the outputs from
the k-th on: the verdict, and how many outputs have been taken in all. Up to 4 it is decided without a draw; from 5 on
it is true when every round passes, after `wc` outputs, and false at the first round that fails. -/
def Obligations.FermatFnVerdict : Prop :=
  ∀ (n wc : Nat) (raw : Nat → Nat) (k : Nat),
    (n ≤ 1 ∨ n = 4 → fermatFn n wc raw k = (false, k)) ∧
    (n = 2 ∨ n = 3 → fermatFn n wc raw k = (true, k)) ∧
    (5 ≤ n → (∀ j, j < wc → witnessIn n (raw (k + j)) ^ (n - 1) % n = 1) →
      fermatFn n wc raw k = (true, k + wc)) ∧
    (5 ≤ n → ∀ i, i < wc → (∀ j, j < i → witnessIn n (raw (k + j)) ^ (n - 1) % n = 1) →
      witnessIn n (raw (k + i)) ^ (n - 1) % n ≠ 1 → fermatFn n wc raw k = (false, k + i + 1))

/-- R352, R325: a run has ended when no host access is left and nothing is pending, whatever turns of the sequencer and
edges of the reset input are still to come; a pending command is not the end. From such a state every step answers a
next state in which the run has ended too, the host has had no response since, and every register keeps its value but
at the assertion of the reset input. -/
def Obligations.EndedRunStaysEnded : Prop :=
  ∀ s : State,
    (s.final = true ↔ s.pend = none ∧ ∀ e ∈ s.env.bus, e.isAccess = false) ∧
    (s.final = true → ∃ t, step s = .next t ∧ t.final = true ∧ t.env.resp = s.env.resp ∧
      (s.env.bus.head? ≠ some .assertReset → t = { s with env := t.env }))
end

