-- ==== Sys2Proof/Laws/State.lean ====
section
/-! SUPPORT. One lemma per field per update of the state, each true by rfl, so that no later proof unfolds a record
update. -/

namespace Sys2Proof.Machine

/-! ### `State.setX` -/

@[simp] theorem State.setX_g (s : State) (i : RegIdx) (v : Word) : (s.setX i v).g = s.g.set i.toNat v i.isLt := rfl
@[simp] theorem State.setX_key (s : State) (i : RegIdx) (v : Word) : (s.setX i v).key = s.key := rfl
@[simp] theorem State.setX_ctrl (s : State) (i : RegIdx) (v : Word) : (s.setX i v).ctrl = s.ctrl := rfl
@[simp] theorem State.setX_status (s : State) (i : RegIdx) (v : Word) : (s.setX i v).status = s.status := rfl
@[simp] theorem State.setX_cmd (s : State) (i : RegIdx) (v : Word) : (s.setX i v).cmd = s.cmd := rfl
@[simp] theorem State.setX_pend (s : State) (i : RegIdx) (v : Word) : (s.setX i v).pend = s.pend := rfl
@[simp] theorem State.setX_env (s : State) (i : RegIdx) (v : Word) : (s.setX i v).env = s.env := rfl

/-! ### `State.ended` -/

@[simp] theorem State.ended_g (s : State) (c : ErrCode) (n : BitVec 4) : (s.ended c n).g = s.g := rfl
@[simp] theorem State.ended_key (s : State) (c : ErrCode) (n : BitVec 4) : (s.ended c n).key = s.key := rfl
@[simp] theorem State.ended_ctrl (s : State) (c : ErrCode) (n : BitVec 4) : (s.ended c n).ctrl = s.ctrl := rfl
@[simp] theorem State.ended_status_done (s : State) (c : ErrCode) (n : BitVec 4) : (s.ended c n).status.done = true := rfl
@[simp] theorem State.ended_status_keyValid (s : State) (c : ErrCode) (n : BitVec 4) : (s.ended c n).status.keyValid = s.status.keyValid := rfl
@[simp] theorem State.ended_status_crtValid (s : State) (c : ErrCode) (n : BitVec 4) : (s.ended c n).status.crtValid = s.status.crtValid := rfl
@[simp] theorem State.ended_status_wrBusy (s : State) (c : ErrCode) (n : BitVec 4) : (s.ended c n).status.wrBusy = s.status.wrBusy := rfl
@[simp] theorem State.ended_status_accErr (s : State) (c : ErrCode) (n : BitVec 4) : (s.ended c n).status.accErr = s.status.accErr := rfl
@[simp] theorem State.ended_status_err (s : State) (c : ErrCode) (n : BitVec 4) : (s.ended c n).status.err = c := rfl
@[simp] theorem State.ended_status_errInfo (s : State) (c : ErrCode) (n : BitVec 4) : (s.ended c n).status.errInfo = n := rfl
@[simp] theorem State.ended_status_lastOpc (s : State) (c : ErrCode) (n : BitVec 4) : (s.ended c n).status.lastOpc = s.status.lastOpc := rfl
@[simp] theorem State.ended_cmd (s : State) (c : ErrCode) (n : BitVec 4) : (s.ended c n).cmd = s.cmd := rfl
@[simp] theorem State.ended_pend (s : State) (c : ErrCode) (n : BitVec 4) : (s.ended c n).pend = none := rfl
@[simp] theorem State.ended_env (s : State) (c : ErrCode) (n : BitVec 4) : (s.ended c n).env = s.env := rfl

/-! ### `State.endedWith` -/

@[simp] theorem State.endedWith_g (s : State) (i : RegIdx) (v : Nat) : (s.endedWith i v).g = s.g.set i.toNat (BitVec.ofNat 32 v) i.isLt := rfl
@[simp] theorem State.endedWith_key (s : State) (i : RegIdx) (v : Nat) : (s.endedWith i v).key = s.key := rfl
@[simp] theorem State.endedWith_ctrl (s : State) (i : RegIdx) (v : Nat) : (s.endedWith i v).ctrl = s.ctrl := rfl
@[simp] theorem State.endedWith_status_done (s : State) (i : RegIdx) (v : Nat) : (s.endedWith i v).status.done = true := rfl
@[simp] theorem State.endedWith_status_keyValid (s : State) (i : RegIdx) (v : Nat) : (s.endedWith i v).status.keyValid = s.status.keyValid := rfl
@[simp] theorem State.endedWith_status_crtValid (s : State) (i : RegIdx) (v : Nat) : (s.endedWith i v).status.crtValid = s.status.crtValid := rfl
@[simp] theorem State.endedWith_status_wrBusy (s : State) (i : RegIdx) (v : Nat) : (s.endedWith i v).status.wrBusy = s.status.wrBusy := rfl
@[simp] theorem State.endedWith_status_accErr (s : State) (i : RegIdx) (v : Nat) : (s.endedWith i v).status.accErr = s.status.accErr := rfl
@[simp] theorem State.endedWith_status_err (s : State) (i : RegIdx) (v : Nat) : (s.endedWith i v).status.err = .ok := rfl
@[simp] theorem State.endedWith_status_errInfo (s : State) (i : RegIdx) (v : Nat) : (s.endedWith i v).status.errInfo = 0 := rfl
@[simp] theorem State.endedWith_status_lastOpc (s : State) (i : RegIdx) (v : Nat) : (s.endedWith i v).status.lastOpc = s.status.lastOpc := rfl
@[simp] theorem State.endedWith_cmd (s : State) (i : RegIdx) (v : Nat) : (s.endedWith i v).cmd = s.cmd := rfl
@[simp] theorem State.endedWith_pend (s : State) (i : RegIdx) (v : Nat) : (s.endedWith i v).pend = none := rfl
@[simp] theorem State.endedWith_env (s : State) (i : RegIdx) (v : Nat) : (s.endedWith i v).env = s.env := rfl

/-! ### `State.endedWithKey` -/

@[simp] theorem State.endedWithKey_g (s : State) (k : KeyFile) (c : Bool) : (s.endedWithKey k c).g = s.g := rfl
@[simp] theorem State.endedWithKey_key (s : State) (k : KeyFile) (c : Bool) : (s.endedWithKey k c).key = k := rfl
@[simp] theorem State.endedWithKey_ctrl (s : State) (k : KeyFile) (c : Bool) : (s.endedWithKey k c).ctrl = s.ctrl := rfl
@[simp] theorem State.endedWithKey_status_done (s : State) (k : KeyFile) (c : Bool) : (s.endedWithKey k c).status.done = true := rfl
@[simp] theorem State.endedWithKey_status_keyValid (s : State) (k : KeyFile) (c : Bool) : (s.endedWithKey k c).status.keyValid = true := rfl
@[simp] theorem State.endedWithKey_status_crtValid (s : State) (k : KeyFile) (c : Bool) : (s.endedWithKey k c).status.crtValid = c := rfl
@[simp] theorem State.endedWithKey_status_wrBusy (s : State) (k : KeyFile) (c : Bool) : (s.endedWithKey k c).status.wrBusy = s.status.wrBusy := rfl
@[simp] theorem State.endedWithKey_status_accErr (s : State) (k : KeyFile) (c : Bool) : (s.endedWithKey k c).status.accErr = s.status.accErr := rfl
@[simp] theorem State.endedWithKey_status_err (s : State) (k : KeyFile) (c : Bool) : (s.endedWithKey k c).status.err = .ok := rfl
@[simp] theorem State.endedWithKey_status_errInfo (s : State) (k : KeyFile) (c : Bool) : (s.endedWithKey k c).status.errInfo = 0 := rfl
@[simp] theorem State.endedWithKey_status_lastOpc (s : State) (k : KeyFile) (c : Bool) : (s.endedWithKey k c).status.lastOpc = s.status.lastOpc := rfl
@[simp] theorem State.endedWithKey_cmd (s : State) (k : KeyFile) (c : Bool) : (s.endedWithKey k c).cmd = s.cmd := rfl
@[simp] theorem State.endedWithKey_pend (s : State) (k : KeyFile) (c : Bool) : (s.endedWithKey k c).pend = none := rfl
@[simp] theorem State.endedWithKey_env (s : State) (k : KeyFile) (c : Bool) : (s.endedWithKey k c).env = s.env := rfl

/-! ### `State.endedCleared` -/

@[simp] theorem State.endedCleared_g (s : State) (c : ErrCode) (n : BitVec 4) : (s.endedCleared c n).g = s.g := rfl
@[simp] theorem State.endedCleared_key (s : State) (c : ErrCode) (n : BitVec 4) : (s.endedCleared c n).key = KeyFile.zero := rfl
@[simp] theorem State.endedCleared_ctrl (s : State) (c : ErrCode) (n : BitVec 4) : (s.endedCleared c n).ctrl = s.ctrl := rfl
@[simp] theorem State.endedCleared_status_done (s : State) (c : ErrCode) (n : BitVec 4) : (s.endedCleared c n).status.done = true := rfl
@[simp] theorem State.endedCleared_status_keyValid (s : State) (c : ErrCode) (n : BitVec 4) : (s.endedCleared c n).status.keyValid = false := rfl
@[simp] theorem State.endedCleared_status_crtValid (s : State) (c : ErrCode) (n : BitVec 4) : (s.endedCleared c n).status.crtValid = false := rfl
@[simp] theorem State.endedCleared_status_wrBusy (s : State) (c : ErrCode) (n : BitVec 4) : (s.endedCleared c n).status.wrBusy = s.status.wrBusy := rfl
@[simp] theorem State.endedCleared_status_accErr (s : State) (c : ErrCode) (n : BitVec 4) : (s.endedCleared c n).status.accErr = s.status.accErr := rfl
@[simp] theorem State.endedCleared_status_err (s : State) (c : ErrCode) (n : BitVec 4) : (s.endedCleared c n).status.err = c := rfl
@[simp] theorem State.endedCleared_status_errInfo (s : State) (c : ErrCode) (n : BitVec 4) : (s.endedCleared c n).status.errInfo = n := rfl
@[simp] theorem State.endedCleared_status_lastOpc (s : State) (c : ErrCode) (n : BitVec 4) : (s.endedCleared c n).status.lastOpc = s.status.lastOpc := rfl
@[simp] theorem State.endedCleared_cmd (s : State) (c : ErrCode) (n : BitVec 4) : (s.endedCleared c n).cmd = s.cmd := rfl
@[simp] theorem State.endedCleared_pend (s : State) (c : ErrCode) (n : BitVec 4) : (s.endedCleared c n).pend = none := rfl
@[simp] theorem State.endedCleared_env (s : State) (c : ErrCode) (n : BitVec 4) : (s.endedCleared c n).env = s.env := rfl

/-! ### `State.loadKey` -/

@[simp] theorem State.loadKey_g (s : State) (k : KeyFile) (c : Bool) : (s.loadKey k c).g = s.g := rfl
@[simp] theorem State.loadKey_key (s : State) (k : KeyFile) (c : Bool) : (s.loadKey k c).key = k := rfl
@[simp] theorem State.loadKey_ctrl (s : State) (k : KeyFile) (c : Bool) : (s.loadKey k c).ctrl = s.ctrl := rfl
@[simp] theorem State.loadKey_status_done (s : State) (k : KeyFile) (c : Bool) : (s.loadKey k c).status.done = s.status.done := rfl
@[simp] theorem State.loadKey_status_keyValid (s : State) (k : KeyFile) (c : Bool) : (s.loadKey k c).status.keyValid = true := rfl
@[simp] theorem State.loadKey_status_crtValid (s : State) (k : KeyFile) (c : Bool) : (s.loadKey k c).status.crtValid = c := rfl
@[simp] theorem State.loadKey_status_wrBusy (s : State) (k : KeyFile) (c : Bool) : (s.loadKey k c).status.wrBusy = s.status.wrBusy := rfl
@[simp] theorem State.loadKey_status_accErr (s : State) (k : KeyFile) (c : Bool) : (s.loadKey k c).status.accErr = s.status.accErr := rfl
@[simp] theorem State.loadKey_status_err (s : State) (k : KeyFile) (c : Bool) : (s.loadKey k c).status.err = s.status.err := rfl
@[simp] theorem State.loadKey_status_errInfo (s : State) (k : KeyFile) (c : Bool) : (s.loadKey k c).status.errInfo = s.status.errInfo := rfl
@[simp] theorem State.loadKey_status_lastOpc (s : State) (k : KeyFile) (c : Bool) : (s.loadKey k c).status.lastOpc = s.status.lastOpc := rfl
@[simp] theorem State.loadKey_cmd (s : State) (k : KeyFile) (c : Bool) : (s.loadKey k c).cmd = s.cmd := rfl
@[simp] theorem State.loadKey_pend (s : State) (k : KeyFile) (c : Bool) : (s.loadKey k c).pend = s.pend := rfl
@[simp] theorem State.loadKey_env (s : State) (k : KeyFile) (c : Bool) : (s.loadKey k c).env = s.env := rfl

/-! ### `State.clearKey` -/

@[simp] theorem State.clearKey_g (s : State) : (s.clearKey).g = s.g := rfl
@[simp] theorem State.clearKey_key (s : State) : (s.clearKey).key = KeyFile.zero := rfl
@[simp] theorem State.clearKey_ctrl (s : State) : (s.clearKey).ctrl = s.ctrl := rfl
@[simp] theorem State.clearKey_status_done (s : State) : (s.clearKey).status.done = s.status.done := rfl
@[simp] theorem State.clearKey_status_keyValid (s : State) : (s.clearKey).status.keyValid = false := rfl
@[simp] theorem State.clearKey_status_crtValid (s : State) : (s.clearKey).status.crtValid = false := rfl
@[simp] theorem State.clearKey_status_wrBusy (s : State) : (s.clearKey).status.wrBusy = s.status.wrBusy := rfl
@[simp] theorem State.clearKey_status_accErr (s : State) : (s.clearKey).status.accErr = s.status.accErr := rfl
@[simp] theorem State.clearKey_status_err (s : State) : (s.clearKey).status.err = s.status.err := rfl
@[simp] theorem State.clearKey_status_errInfo (s : State) : (s.clearKey).status.errInfo = s.status.errInfo := rfl
@[simp] theorem State.clearKey_status_lastOpc (s : State) : (s.clearKey).status.lastOpc = s.status.lastOpc := rfl
@[simp] theorem State.clearKey_cmd (s : State) : (s.clearKey).cmd = s.cmd := rfl
@[simp] theorem State.clearKey_pend (s : State) : (s.clearKey).pend = s.pend := rfl
@[simp] theorem State.clearKey_env (s : State) : (s.clearKey).env = s.env := rfl

/-! ### `State.withBus` -/

@[simp] theorem State.withBus_g (s : State) (b : List Event) : (s.withBus b).g = s.g := rfl
@[simp] theorem State.withBus_key (s : State) (b : List Event) : (s.withBus b).key = s.key := rfl
@[simp] theorem State.withBus_ctrl (s : State) (b : List Event) : (s.withBus b).ctrl = s.ctrl := rfl
@[simp] theorem State.withBus_status (s : State) (b : List Event) : (s.withBus b).status = s.status := rfl
@[simp] theorem State.withBus_cmd (s : State) (b : List Event) : (s.withBus b).cmd = s.cmd := rfl
@[simp] theorem State.withBus_pend (s : State) (b : List Event) : (s.withBus b).pend = s.pend := rfl
@[simp] theorem State.withBus_env_bus (s : State) (b : List Event) : (s.withBus b).env.bus = b := rfl
@[simp] theorem State.withBus_env_resp (s : State) (b : List Event) : (s.withBus b).env.resp = s.env.resp := rfl
@[simp] theorem State.withBus_env_resetIn (s : State) (b : List Event) : (s.withBus b).env.resetIn = s.env.resetIn := rfl
@[simp] theorem State.withBus_env_supply (s : State) (b : List Event) : (s.withBus b).env.supply = s.env.supply := rfl
@[simp] theorem State.withBus_env_drawn (s : State) (b : List Event) : (s.withBus b).env.drawn = s.env.drawn := rfl

/-! ### `State.respond` -/

@[simp] theorem State.respond_g (s : State) (r : Response) : (s.respond r).g = s.g := rfl
@[simp] theorem State.respond_key (s : State) (r : Response) : (s.respond r).key = s.key := rfl
@[simp] theorem State.respond_ctrl (s : State) (r : Response) : (s.respond r).ctrl = s.ctrl := rfl
@[simp] theorem State.respond_status (s : State) (r : Response) : (s.respond r).status = s.status := rfl
@[simp] theorem State.respond_cmd (s : State) (r : Response) : (s.respond r).cmd = s.cmd := rfl
@[simp] theorem State.respond_pend (s : State) (r : Response) : (s.respond r).pend = s.pend := rfl
@[simp] theorem State.respond_env_bus (s : State) (r : Response) : (s.respond r).env.bus = s.env.bus := rfl
@[simp] theorem State.respond_env_resp (s : State) (r : Response) : (s.respond r).env.resp = some r := rfl
@[simp] theorem State.respond_env_resetIn (s : State) (r : Response) : (s.respond r).env.resetIn = s.env.resetIn := rfl
@[simp] theorem State.respond_env_supply (s : State) (r : Response) : (s.respond r).env.supply = s.env.supply := rfl
@[simp] theorem State.respond_env_drawn (s : State) (r : Response) : (s.respond r).env.drawn = s.env.drawn := rfl

/-! ### `State.consume` -/

@[simp] theorem State.consume_g (s : State) (k : Nat) : (s.consume k).g = s.g := rfl
@[simp] theorem State.consume_key (s : State) (k : Nat) : (s.consume k).key = s.key := rfl
@[simp] theorem State.consume_ctrl (s : State) (k : Nat) : (s.consume k).ctrl = s.ctrl := rfl
@[simp] theorem State.consume_status (s : State) (k : Nat) : (s.consume k).status = s.status := rfl
@[simp] theorem State.consume_cmd (s : State) (k : Nat) : (s.consume k).cmd = s.cmd := rfl
@[simp] theorem State.consume_pend (s : State) (k : Nat) : (s.consume k).pend = s.pend := rfl
@[simp] theorem State.consume_env_bus (s : State) (k : Nat) : (s.consume k).env.bus = s.env.bus := rfl
@[simp] theorem State.consume_env_resp (s : State) (k : Nat) : (s.consume k).env.resp = s.env.resp := rfl
@[simp] theorem State.consume_env_resetIn (s : State) (k : Nat) : (s.consume k).env.resetIn = s.env.resetIn := rfl
@[simp] theorem State.consume_env_supply (s : State) (k : Nat) : (s.consume k).env.supply = s.env.supply.drop k := rfl
@[simp] theorem State.consume_env_drawn (s : State) (k : Nat) : (s.consume k).env.drawn = s.env.drawn + k := rfl

/-! ### `State.drew` -/

@[simp] theorem State.drew_g (s : State) (k : Nat) : (s.drew k).g = s.g := rfl
@[simp] theorem State.drew_key (s : State) (k : Nat) : (s.drew k).key = s.key := rfl
@[simp] theorem State.drew_ctrl (s : State) (k : Nat) : (s.drew k).ctrl = s.ctrl := rfl
@[simp] theorem State.drew_status (s : State) (k : Nat) : (s.drew k).status = s.status := rfl
@[simp] theorem State.drew_cmd (s : State) (k : Nat) : (s.drew k).cmd = s.cmd := rfl
@[simp] theorem State.drew_pend (s : State) (k : Nat) : (s.drew k).pend = s.pend := rfl
@[simp] theorem State.drew_env_bus (s : State) (k : Nat) : (s.drew k).env.bus = s.env.bus := rfl
@[simp] theorem State.drew_env_resp (s : State) (k : Nat) : (s.drew k).env.resp = s.env.resp := rfl
@[simp] theorem State.drew_env_resetIn (s : State) (k : Nat) : (s.drew k).env.resetIn = s.env.resetIn := rfl
@[simp] theorem State.drew_env_supply (s : State) (k : Nat) : (s.drew k).env.supply = s.env.supply.drop k := rfl
@[simp] theorem State.drew_env_drawn (s : State) (k : Nat) : (s.drew k).env.drawn = s.env.drawn + k := rfl

/-! ### `State.flagAccess` -/

@[simp] theorem State.flagAccess_g (s : State) : (s.flagAccess).g = s.g := rfl
@[simp] theorem State.flagAccess_key (s : State) : (s.flagAccess).key = s.key := rfl
@[simp] theorem State.flagAccess_ctrl (s : State) : (s.flagAccess).ctrl = s.ctrl := rfl
@[simp] theorem State.flagAccess_status_done (s : State) : (s.flagAccess).status.done = s.status.done := rfl
@[simp] theorem State.flagAccess_status_keyValid (s : State) : (s.flagAccess).status.keyValid = s.status.keyValid := rfl
@[simp] theorem State.flagAccess_status_crtValid (s : State) : (s.flagAccess).status.crtValid = s.status.crtValid := rfl
@[simp] theorem State.flagAccess_status_wrBusy (s : State) : (s.flagAccess).status.wrBusy = s.status.wrBusy := rfl
@[simp] theorem State.flagAccess_status_accErr (s : State) : (s.flagAccess).status.accErr = true := rfl
@[simp] theorem State.flagAccess_status_err (s : State) : (s.flagAccess).status.err = s.status.err := rfl
@[simp] theorem State.flagAccess_status_errInfo (s : State) : (s.flagAccess).status.errInfo = s.status.errInfo := rfl
@[simp] theorem State.flagAccess_status_lastOpc (s : State) : (s.flagAccess).status.lastOpc = s.status.lastOpc := rfl
@[simp] theorem State.flagAccess_cmd (s : State) : (s.flagAccess).cmd = s.cmd := rfl
@[simp] theorem State.flagAccess_pend (s : State) : (s.flagAccess).pend = s.pend := rfl
@[simp] theorem State.flagAccess_env (s : State) : (s.flagAccess).env = s.env := rfl

/-! ### `State.flagBusyWrite` -/

@[simp] theorem State.flagBusyWrite_g (s : State) : (s.flagBusyWrite).g = s.g := rfl
@[simp] theorem State.flagBusyWrite_key (s : State) : (s.flagBusyWrite).key = s.key := rfl
@[simp] theorem State.flagBusyWrite_ctrl (s : State) : (s.flagBusyWrite).ctrl = s.ctrl := rfl
@[simp] theorem State.flagBusyWrite_status_done (s : State) : (s.flagBusyWrite).status.done = s.status.done := rfl
@[simp] theorem State.flagBusyWrite_status_keyValid (s : State) : (s.flagBusyWrite).status.keyValid = s.status.keyValid := rfl
@[simp] theorem State.flagBusyWrite_status_crtValid (s : State) : (s.flagBusyWrite).status.crtValid = s.status.crtValid := rfl
@[simp] theorem State.flagBusyWrite_status_wrBusy (s : State) : (s.flagBusyWrite).status.wrBusy = true := rfl
@[simp] theorem State.flagBusyWrite_status_accErr (s : State) : (s.flagBusyWrite).status.accErr = s.status.accErr := rfl
@[simp] theorem State.flagBusyWrite_status_err (s : State) : (s.flagBusyWrite).status.err = s.status.err := rfl
@[simp] theorem State.flagBusyWrite_status_errInfo (s : State) : (s.flagBusyWrite).status.errInfo = s.status.errInfo := rfl
@[simp] theorem State.flagBusyWrite_status_lastOpc (s : State) : (s.flagBusyWrite).status.lastOpc = s.status.lastOpc := rfl
@[simp] theorem State.flagBusyWrite_cmd (s : State) : (s.flagBusyWrite).cmd = s.cmd := rfl
@[simp] theorem State.flagBusyWrite_pend (s : State) : (s.flagBusyWrite).pend = s.pend := rfl
@[simp] theorem State.flagBusyWrite_env (s : State) : (s.flagBusyWrite).env = s.env := rfl

/-! ### `State.releaseReset` -/

@[simp] theorem State.releaseReset_g (s : State) : (s.releaseReset).g = s.g := rfl
@[simp] theorem State.releaseReset_key (s : State) : (s.releaseReset).key = s.key := rfl
@[simp] theorem State.releaseReset_ctrl (s : State) : (s.releaseReset).ctrl = s.ctrl := rfl
@[simp] theorem State.releaseReset_status (s : State) : (s.releaseReset).status = s.status := rfl
@[simp] theorem State.releaseReset_cmd (s : State) : (s.releaseReset).cmd = s.cmd := rfl
@[simp] theorem State.releaseReset_pend (s : State) : (s.releaseReset).pend = s.pend := rfl
@[simp] theorem State.releaseReset_env_bus (s : State) : (s.releaseReset).env.bus = s.env.bus := rfl
@[simp] theorem State.releaseReset_env_resp (s : State) : (s.releaseReset).env.resp = s.env.resp := rfl
@[simp] theorem State.releaseReset_env_resetIn (s : State) : (s.releaseReset).env.resetIn = false := rfl
@[simp] theorem State.releaseReset_env_supply (s : State) : (s.releaseReset).env.supply = s.env.supply := rfl
@[simp] theorem State.releaseReset_env_drawn (s : State) : (s.releaseReset).env.drawn = s.env.drawn := rfl

/-! ### Reset -/

@[simp] theorem State.resetRegs_env (s : State) : s.resetRegs.env = s.env := rfl
@[simp] theorem State.resetRegs_pend (s : State) : s.resetRegs.pend = none := rfl
@[simp] theorem State.resetRegs_key (s : State) : s.resetRegs.key = KeyFile.zero := rfl
@[simp] theorem State.resetRegs_status (s : State) : s.resetRegs.status = State.reset.status := rfl
@[simp] theorem State.resetRegs_cmd (s : State) : s.resetRegs.cmd = 0 := rfl
@[simp] theorem State.resetRegs_g (s : State) : s.resetRegs.g = State.reset.g := rfl
@[simp] theorem State.resetRegs_ctrl (s : State) : s.resetRegs.ctrl = State.reset.ctrl := rfl
@[simp] theorem State.assertReset_eq (s : State) :
    s.assertReset = { s.resetRegs with env := { s.env with resetIn := true } } := rfl

/-! ### General registers: a read after a write -/

theorem State.x_setX_same (s : State) (i : RegIdx) (v : Word) : (s.setX i v).x i = v := by
  simp [State.x]

theorem State.x_setX_other (s : State) {i j : RegIdx} (v : Word) (h : j ≠ i) : (s.setX i v).x j = s.x j := by
  have h' : i.toNat ≠ j.toNat := fun e => h (BitVec.eq_of_toNat_eq e.symm)
  simp [State.x, Vector.getElem_set_ne, h']

/-- Two states with the same general registers read the same. -/
theorem State.x_congr {s t : State} (h : s.g = t.g) (i : RegIdx) : s.x i = t.x i := by
  simp [State.x, h]

theorem State.x_endedWith_same (s : State) (i : RegIdx) (v : Nat) : (s.endedWith i v).x i = BitVec.ofNat 32 v :=
  s.x_setX_same i _

theorem State.x_endedWith_other (s : State) {i j : RegIdx} (v : Nat) (h : j ≠ i) : (s.endedWith i v).x j = s.x j :=
  s.x_setX_other _ h

@[simp] theorem State.x_reset (i : RegIdx) : State.reset.x i = 0 := by
  simp [State.x, State.reset]

end Sys2Proof.Machine
end

