-- ==== Sys2Proof/Laws/Ops.lean ====
section
/-! SUPPORT. What each shared operation can do, said once: completion, the state it ends in, issue, the host's read
and write, and the inversion of `exec` and `step`. -/

namespace Sys2Proof.Machine

/-! ### Completion -/

@[simp] theorem State.completeOk_eq (s : State) : s.completeOk = s.ended .ok 0 := rfl

@[simp] theorem State.raise_eq (s : State) (c : ErrCode) (n : BitVec 4) : s.raise c n = s.ended c n := rfl

theorem State.completeWrite_eq (s : State) (i : RegIdx) (v : Word) : s.completeWrite i v = s.endedWith i v.toNat := by
  simp only [State.endedWith, State.completeWrite, State.finish, State.setX, State.ended, BitVec.ofNat_toNat,
    BitVec.setWidth_eq]

@[simp] theorem State.completeWrite_u32 (s : State) (i : RegIdx) (n : Nat) :
    s.completeWrite i (u32 n) = s.endedWith i n := rfl

@[simp] theorem State.consume_eq_drew (s : State) (k : Nat) : s.consume k = s.drew k := rfl

@[simp] theorem State.completeKey_ok (s : State) (crt : Bool) (k : KeyFile) :
    s.completeKey crt (.ok k) = s.endedWithKey k crt := rfl

@[simp] theorem State.completeKey_error (s : State) (crt : Bool) (r : Raised) :
    s.completeKey crt (.error r) = s.endedCleared r.code r.info := rfl

theorem State.drew_zero (s : State) : s.drew 0 = s := rfl

theorem completing_some {s : State} {p : Pending} (h : s.pend = some p) (f : Pending → State) :
    completing s f = .next (f p) := by
  simp [completing, h]

theorem completing_next {s t : State} {f : Pending → State} (h : completing s f = .next t) :
    ∃ p, s.pend = some p ∧ t = f p := by
  unfold completing at h
  split at h
  · cases h
  · next p hp =>
    cases h
    exact ⟨p, hp, rfl⟩

/-- With no zero modulus a cipher command writes its rule's result. -/
theorem cipherValue_u32 {z : Bool} (h : z = false) (v : Word) (r : Nat) : cipherValue z v r = u32 r := by
  simp [cipherValue, h]

/-- The states a completion can end in: a report alone, a result in one register, a whole key, or a cleared key; the
last three may have consumed draws. -/
inductive EndsIn (s : State) (i : Instr) : State → Prop where
  | report (c : ErrCode) (n : BitVec 4) : c ≠ .notPrime → n = 0 → EndsIn s i (s.ended c n)
  | result (k v : Nat) : EndsIn s i ((s.drew k).endedWith i.fields.rd v)
  | key (k : Nat) (f : KeyFile) (c : Bool) : i.fields.opc = 6 ∨ i.fields.opc = 7 → EndsIn s i ((s.drew k).endedWithKey f c)
  | cleared (k : Nat) (c : ErrCode) (n : BitVec 4) : i.fields.opc = 6 ∨ i.fields.opc = 7 ∨ i.fields.opc = 11 →
      EndsIn s i ((s.drew k).endedCleared c n)

theorem completeKey_endsIn (s : State) (i : Instr) (k : Nat) (crt : Bool) (r : Except Raised KeyFile)
    (h : i.fields.opc = 6 ∨ i.fields.opc = 7) : EndsIn s i ((s.drew k).completeKey crt r) := by
  cases r with
  | error r => exact .cleared k r.code r.info (by tauto)
  | ok f => exact .key k f crt h

/-- A zero modulus or a value, the two ends of MULMOD and MODPOW. -/
theorem ite_endsIn (s : State) (i : Instr) (b : Prop) [Decidable b] (c : ErrCode) (hc : c ≠ .notPrime) (v : Nat) :
    EndsIn s i (if b then s.raise c 0 else s.completeWrite i.fields.rd (u32 v)) := by
  split
  · exact .report c 0 hc rfl
  · exact .result 0 v

/-- A value or NO_KEY, the two ends of the cipher commands. -/
theorem valued_endsIn (s : State) (i : Instr) (b : Bool) (v : Word) :
    EndsIn s i (if b then s.completeWrite i.fields.rd v else s.raise .noKey 0) := by
  split
  · rw [State.completeWrite_eq]
    exact .result 0 _
  · exact .report _ _ (by decide) rfl

/-- The inversion of `exec`: with a command pending it answers a state of `EndsIn`, and nothing else. -/
theorem exec_endsIn (i : Instr) {s : State} {p : Pending} (h : s.pend = some p) :
    ∃ t, exec i s = .next t ∧ EndsIn s i t := by
  cases i with
  | nop => exact ⟨_, completing_some h _, .report _ _ (by decide) rfl⟩
  | gcd rd rs1 rs2 => exact ⟨_, completing_some h _, .result 0 _⟩
  | mulmod rd rs1 rs2 rs3 => exact ⟨_, completing_some h _, ite_endsIn s (.mulmod rd rs1 rs2 rs3) _ _ (by decide) _⟩
  | modpow rd rs1 rs2 rs3 => exact ⟨_, completing_some h _, ite_endsIn s (.modpow rd rs1 rs2 rs3) _ _ (by decide) _⟩
  | modinv rd rs1 rs2 =>
    refine ⟨_, completing_some h _, ?_⟩
    split
    · exact .report _ _ (by decide) rfl
    · split
      · exact .report _ _ (by decide) rfl
      · next d _ => exact .result 0 d
  | prime rd rs1 =>
    refine ⟨_, completing_some h _, ?_⟩
    dsimp only
    rw [State.completeWrite_eq]
    exact .result _ _
  | keygen rs1 rs2 rs3 val crt => exact ⟨_, completing_some h _, completeKey_endsIn _ _ _ _ _ (.inl rfl)⟩
  | keygena rs1 rs2 val crt => exact ⟨_, completing_some h _, completeKey_endsIn _ _ _ _ _ (.inr rfl)⟩
  | encrypt rd rs1 => exact ⟨_, completing_some h _, valued_endsIn s (.encrypt rd rs1) _ _⟩
  | decrypt rd rs1 => exact ⟨_, completing_some h _, valued_endsIn s (.decrypt rd rs1) _ _⟩
  | deccrt rd rs1 => exact ⟨_, completing_some h _, valued_endsIn s (.deccrt rd rs1) _ _⟩
  | clrkey => exact ⟨_, completing_some h _, .cleared 0 .ok 0 (by decide)⟩

/-- Without a pending command every meaning stops: completion is not enabled (R104). -/
theorem exec_idle (i : Instr) {s : State} (h : s.pend = none) : exec i s = .fault .noCommandPending := by
  cases i <;> simp [exec, execNop, execGcd, execMulmod, execModpow, execModinv, execPrime, execKeygen, execKeygena,
    execEncrypt, execDecrypt, execDeccrt, execClrkey, completing, h]

theorem exec_next {i : Instr} {s t : State} (h : exec i s = .next t) : (∃ p, s.pend = some p) ∧ EndsIn s i t := by
  cases hp : s.pend with
  | none => rw [exec_idle i hp] at h; cases h
  | some p =>
    obtain ⟨u, hu, he⟩ := exec_endsIn i hp
    rw [hu] at h
    cases h
    exact ⟨⟨p, rfl⟩, he⟩

/-! ### Issue and host accesses -/

theorem issue_illegal {w : Word} {s : State} (h : decode w = none) :
    issue w s =
      { s with
        cmd := w
        status := { s.status with lastOpc := w.extractLsb' 0 6, done := true, err := .illegalCommand, errInfo := 0 } } := by
  simp [issue, h, issueIllegal]

theorem issue_legal {w : Word} {i : Instr} {s : State} (h : decode w = some i) :
    issue w s =
      { s with
        cmd := w
        pend := some (s.latch i)
        status := { s.status with lastOpc := w.extractLsb' 0 6, done := false, err := .ok, errInfo := 0 } } := by
  simp [issue, h, issueLegal, State.latch, State.x]

theorem hostRead_refused {off : BitVec 8} {size : Nat} {s : State} (h : accessAt off size = none) :
    hostRead off size s = s.flagAccess.respond (.read 0 true) := by
  simp [hostRead, h]

theorem hostRead_mapped {off : BitVec 8} {size : Nat} {s : State} {r : Reg} (h : accessAt off size = some r) :
    hostRead off size s = s.respond (.read (readReg s r) false) := by
  simp [hostRead, h]

theorem hostWrite_refused {off : BitVec 8} {size : Nat} {v : Word} {s : State} (h : accessAt off size = none) :
    hostWrite off size v s = s.flagAccess.respond (.write true) := by
  simp [hostWrite, h]

theorem hostWrite_mapped {off : BitVec 8} {size : Nat} {v : Word} {s : State} {r : Reg}
    (h : accessAt off size = some r) :
    hostWrite off size v s = (writeReg s v r).1.respond (.write (writeReg s v r).2) := by
  simp [hostWrite, h]

theorem hostStep_next {f : State → State} {s t : State} (h : hostStep f s = .next t) :
    s.env.resetIn = false ∧ t = f s := by
  unfold hostStep at h
  split at h
  · cases h
  · next hr =>
    cases h
    exact ⟨by simpa using hr, rfl⟩

/-! ### The step -/

theorem State.ready_some {s : State} {p : Pending} (h : s.ready = some p) :
    s.env.resetIn = false ∧ s.pend = some p := by
  unfold State.ready at h
  split at h
  · cases h
  · next hr => exact ⟨by simpa using hr, h⟩

/-- The sequencer's turn: nothing happens, or the pending command ends. -/
theorem completion_cases (s : State) :
    (s.ready = none ∧ completion s = .next s) ∨
      ∃ p t, s.env.resetIn = false ∧ s.pend = some p ∧ completion s = .next t ∧ exec p.instr s = .next t ∧
        EndsIn s p.instr t := by
  cases hr : s.ready with
  | none => exact .inl ⟨rfl, by simp [completion, hr]⟩
  | some p =>
    obtain ⟨hn, hp⟩ := State.ready_some hr
    obtain ⟨t, ht, he⟩ := exec_endsIn p.instr hp
    exact .inr ⟨p, t, hn, hp, by simpa [completion, hr] using ht, ht, he⟩

/-- What a step that answers a next state has done: one host access outside reset, one turn of the sequencer, or one
edge of the reset input. -/
theorem step_next {s t : State} (h : step s = .next t) :
    (s.env.bus = [] ∧ completion s = .next t) ∨
    ∃ e rest, s.env.bus = e :: rest ∧
      ((∃ off size, e = .read off size ∧ s.env.resetIn = false ∧ t = hostRead off size (s.withBus rest)) ∨
       (∃ off size v, e = .write off size v ∧ s.env.resetIn = false ∧ t = hostWrite off size v (s.withBus rest)) ∨
       (e = .engine ∧ completion (s.withBus rest) = .next t) ∨
       (e = .assertReset ∧ t = (s.withBus rest).assertReset) ∨
       (e = .releaseReset ∧ t = (s.withBus rest).releaseReset)) := by
  unfold step at h
  split at h
  · next hb => exact .inl ⟨hb, h⟩
  · next e rest hb =>
    refine .inr ⟨e, rest, hb, ?_⟩
    cases e with
    | read off size =>
      obtain ⟨hr, ht⟩ := hostStep_next h
      exact .inl ⟨off, size, rfl, hr, ht⟩
    | write off size v =>
      obtain ⟨hr, ht⟩ := hostStep_next h
      exact .inr (.inl ⟨off, size, v, rfl, hr, ht⟩)
    | engine => exact .inr (.inr (.inl ⟨rfl, h⟩))
    | assertReset =>
      cases h
      exact .inr (.inr (.inr (.inl ⟨rfl, rfl⟩)))
    | releaseReset =>
      cases h
      exact .inr (.inr (.inr (.inr ⟨rfl, rfl⟩)))

end Sys2Proof.Machine
end

