-- ==== Sys2Proof/Laws/Arith.lean ====
section
/-! SUPPORT. The loops of the pure functions satisfy the equations of the spec's `while` loops: the bound a loop is
written with is never what ends it (log 13). One equation per function, so that nothing later unfolds a loop. -/

namespace Sys2Proof.Machine

/-! ### `gcd_fn` (R120) -/

theorem gcdLoop_enough {b : Nat} (fuel a : Nat) (h : b ≤ fuel) : gcdLoop fuel a b = gcdLoop b a b := by
  induction fuel using Nat.strongRecOn generalizing a b with
  | ind fuel ih =>
    cases fuel with
    | zero => obtain rfl : b = 0 := by omega
              rfl
    | succ fuel =>
      cases b with
      | zero => simp [gcdLoop]
      | succ c =>
        have hlt : a % (c + 1) < c + 1 := Nat.mod_lt _ (by omega)
        simp only [gcdLoop, Nat.add_one_ne_zero, if_false]
        rw [ih fuel (by omega) _ (by omega), ih c (by omega) _ (by omega)]

/-- The `while` loop of R120. -/
theorem gcdFn_step (a b : Nat) : gcdFn a b = if b = 0 then a else gcdFn b (a % b) := by
  cases b with
  | zero => rfl
  | succ c =>
    have hlt : a % (c + 1) < c + 1 := Nat.mod_lt _ (by omega)
    simp only [gcdFn, gcdLoop, Nat.add_one_ne_zero, if_false]
    exact gcdLoop_enough c _ (by omega)

/-! ### `modpow_fn` (R122) -/

theorem modpowLoop_enough {e : Nat} (m fuel r b : Nat) (h : e ≤ fuel) :
    modpowLoop m fuel r b e = modpowLoop m e r b e := by
  induction fuel using Nat.strongRecOn generalizing r b e with
  | ind fuel ih =>
    cases fuel with
    | zero => obtain rfl : e = 0 := by omega
              rfl
    | succ fuel =>
      cases e with
      | zero => simp [modpowLoop]
      | succ e =>
        simp only [modpowLoop, Nat.add_one_ne_zero, if_false]
        rw [ih fuel (by omega) _ _ (by omega), ih e (by omega) _ _ (by omega)]

/-- One round of the loop of R122. -/
theorem modpowLoop_round {e : Nat} (m r b : Nat) (h : 0 < e) :
    modpowLoop m e r b e =
      modpowLoop m (e / 2) (if e % 2 = 1 then mulmodFn r b m else r) (mulmodFn b b m) (e / 2) := by
  cases e with
  | zero => omega
  | succ e =>
    simp only [modpowLoop, Nat.add_one_ne_zero, if_false]
    exact modpowLoop_enough m e _ _ (by omega)

/-! ### `modinv_fn` (R170) -/

theorem sub_div_mul (r n : Nat) : r - r / n * n = r % n := by
  have := Nat.div_add_mod' r n
  omega

theorem modinvLoop_enough {newR : Nat} (fuel r : Nat) (t newT : Int) (h : newR ≤ fuel) :
    modinvLoop fuel r newR t newT = modinvLoop newR r newR t newT := by
  induction fuel using Nat.strongRecOn generalizing r newR t newT with
  | ind fuel ih =>
    cases fuel with
    | zero => obtain rfl : newR = 0 := by omega
              rfl
    | succ fuel =>
      cases newR with
      | zero => simp [modinvLoop]
      | succ n =>
        have hlt : r % (n + 1) < n + 1 := Nat.mod_lt _ (by omega)
        simp only [modinvLoop, Nat.add_one_ne_zero, if_false, sub_div_mul]
        rw [ih fuel (by omega) _ _ _ (by omega), ih n (by omega) _ _ _ (by omega)]

/-- One round of the loop of R170. -/
theorem modinvLoop_round {newR : Nat} (r : Nat) (t newT : Int) (h : 0 < newR) :
    modinvLoop newR r newR t newT =
      modinvLoop (r % newR) newR (r % newR) newT (t - (r / newR : Nat) * newT) := by
  cases newR with
  | zero => omega
  | succ n =>
    have hlt : r % (n + 1) < n + 1 := Nat.mod_lt _ (by omega)
    simp only [modinvLoop, Nat.add_one_ne_zero, if_false, sub_div_mul]
    exact modinvLoop_enough n _ _ _ (by omega)

theorem modinvLoop_end (r : Nat) (t newT : Int) : modinvLoop 0 r 0 t newT = (r, t) := rfl

/-! ### `search_e` (R192) -/

theorem searchLoop_enough {phi e : Nat} (fuel : Nat) (h : phi ≤ fuel + e) :
    searchLoop phi (fuel + 1) e = searchLoop phi fuel e := by
  induction fuel generalizing e with
  | zero =>
    have : ¬ e < phi := by omega
    simp [searchLoop, this]
  | succ n ih =>
    show (if e < phi then (if gcdFn e phi = 1 then some e else searchLoop phi (n + 1) (e + 2)) else none) =
      (if e < phi then (if gcdFn e phi = 1 then some e else searchLoop phi n (e + 2)) else none)
    rw [ih (by omega)]

/-- The `while` loop of R192: a bound that reaches `phi` is as good as any larger one. -/
theorem searchLoop_step {phi e fuel : Nat} (h : phi ≤ fuel + e) :
    searchLoop phi fuel e =
      if e < phi then (if gcdFn e phi = 1 then some e else searchLoop phi fuel (e + 2)) else none := by
  rw [← searchLoop_enough fuel h]
  rfl

/-! ### The witness draws (R151) -/

/-- No draw is ever outside `[2, n-2]`. -/
theorem witnessIn_range {n : Nat} (r : Nat) (h : 5 ≤ n) : 2 ≤ witnessIn n r ∧ witnessIn n r + 2 ≤ n := by
  unfold witnessIn
  split
  · assumption
  · have := Nat.mod_lt r (show n - 3 > 0 by omega)
    omega

/-! ### `fermat_fn` (R150) -/

/-- The loop takes at most one output a round. -/
theorem fermatLoop_used (n : Nat) (raw : Nat → Nat) (rounds k : Nat) :
    k ≤ (fermatLoop n raw rounds k).2 ∧ (fermatLoop n raw rounds k).2 ≤ k + rounds := by
  induction rounds generalizing k with
  | zero => simp [fermatLoop]
  | succ m ih =>
    unfold fermatLoop
    split
    · simp only; omega
    · have := ih (k + 1)
      omega

end Sys2Proof.Machine
end

