-- ==== Sys2Proof/Laws/PerInstr.lean ====
section
/-! SUPPORT. Per-instruction families. FieldsFit: the fields a command is encoded from pass every check of R96 (an
assigned opcode, reserved fields 0, every field R95 marks 0 being 0). -/

namespace Sys2Proof.Laws.FieldsFit

/-- The command's fields are legal (R96). -/
def Statement (i : Instr) : Prop := i.fields.wellFormed = true

theorem nop : Statement .nop := by simp only [Statement]; decide
theorem gcd (rd rs1 rs2 : RegIdx) : Statement (.gcd rd rs1 rs2) := rfl
theorem mulmod (rd rs1 rs2 rs3 : RegIdx) : Statement (.mulmod rd rs1 rs2 rs3) := rfl
theorem modpow (rd rs1 rs2 rs3 : RegIdx) : Statement (.modpow rd rs1 rs2 rs3) := rfl
theorem modinv (rd rs1 rs2 : RegIdx) : Statement (.modinv rd rs1 rs2) := rfl
theorem prime (rd rs1 : RegIdx) : Statement (.prime rd rs1) := rfl
theorem keygen (rs1 rs2 rs3 : RegIdx) (val crt : Bool) : Statement (.keygen rs1 rs2 rs3 val crt) := rfl
theorem keygena (rs1 rs2 : RegIdx) (val crt : Bool) : Statement (.keygena rs1 rs2 val crt) := rfl
theorem encrypt (rd rs1 : RegIdx) : Statement (.encrypt rd rs1) := rfl
theorem decrypt (rd rs1 : RegIdx) : Statement (.decrypt rd rs1) := rfl
theorem deccrt (rd rs1 : RegIdx) : Statement (.deccrt rd rs1) := rfl
theorem clrkey : Statement .clrkey := by simp only [Statement]; decide

end Sys2Proof.Laws.FieldsFit
end

