-- ==== Sys2Proof/Tests/Slice0.lean ====
section
/-! SUPPORT. The model's own tests. Expected values come from 95_test_vectors.md and from the encodings of
30_encoding.md. The `witness_` theorems show, for each statement of Certificates/Slice0 that has hypotheses, a
concrete state and operands that meet them, clause by clause, at the boundary values. -/

namespace Sys2Proof.Tests

-- one theorem at a time: the elaborator's threads for many kernel evaluations at once ask for more stack than a
-- limited process has
set_option Elab.async false

open Machine

/-! ### Helpers -/

/-- The reset state with these general registers written. -/
def withRegs (l : List (RegIdx × Nat)) : State := l.foldl (fun s p => s.setX p.1 (u32 p.2)) State.reset

/-- The state with these outputs of the random source to come. -/
def supplied (l : List Nat) (s : State) : State := { s with env := { s.env with supply := l } }

/-- One step on a command word placed where the step runs it. -/
def runWord (w : Nat) (s : State) : Result := step (s.withFetchWord 32 w)

/-- A test of the next state; false on a stop. -/
def after (r : Result) (f : State → Bool) : Bool :=
  match r with
  | .next t => f t
  | .fault _ => false
  | .refused _ => false

/-- The latch of an issued command with these operand values and five witness rounds. -/
def latched (i : Instr) (v1 v2 v3 : Nat) : Pending := { instr := i, v1 := u32 v1, v2 := u32 v2, v3 := u32 v3, wc := 5 }

/-- The reset state with this latch. -/
def busy (p : Pending) : State := { State.reset with pend := some p }

/-- The state holding this key. -/
def keyed (k : KeyFile) (crt : Bool) (s : State) : State := s.loadKey k crt

/-- K1 of 95_test_vectors.md §2.7. -/
def k1 : KeyFile :=
  { p := 61, q := 53, e := 17, n := 3233, phi := 3120, d := 2753, dp := 53, dq := 49, qinv := 38, pinv := 20 }

/-- K4 of 95_test_vectors.md §2.7. -/
def k4 : KeyFile := { p := 2, q := 5, e := 3, n := 10, phi := 4, d := 3, dp := 0, dq := 3, qinv := 1, pinv := 3 }

/-- The fields of a NOP, the base of the ill-formed terms below. -/
def nopFields : Cmd32 := .plain 0 0 0 0 0

/-! ### Well-formedness (R96) -/

theorem test_fields_legal :
    nopFields.wellFormed = true ∧ (Cmd32.plain 0x0A 15 15 0 0).wellFormed = true ∧
      (Cmd32.keyed 0x07 15 15 0 true true).wellFormed = true ∧ (Instr.keygen 1 2 3 true false).wellFormed = true := by
  decide

theorem test_fields_opcode : { nopFields with opc := 0x0C }.wellFormed = false := by decide
theorem test_fields_reserved_low : { nopFields with res1 := 1 }.wellFormed = false := by decide
theorem test_fields_reserved_high : { nopFields with res2 := 1 }.wellFormed = false := by decide
theorem test_fields_rd : (Cmd32.plain 0x0B 1 0 0 0).wellFormed = false := by decide
theorem test_fields_rs1 : (Cmd32.plain 0x0B 0 1 0 0).wellFormed = false := by decide
theorem test_fields_rs2 : (Cmd32.plain 0x05 1 1 1 0).wellFormed = false := by decide
theorem test_fields_rs3 : (Cmd32.keyed 0x07 1 1 1 false false).wellFormed = false := by decide
theorem test_fields_val : { Cmd32.plain 0x01 1 1 1 0 with val := true }.wellFormed = false := by decide
theorem test_fields_crt : { Cmd32.plain 0x08 1 1 0 0 with crt := true }.wellFormed = false := by decide

/-! ### Decoding: words written out from R90 and R95, bits 31:26, CRT, VAL, RS3, RS2, RS1, RD, 7:6, OPC -/

theorem test_decode_nop : decode 0b000000_0_0_0000_0000_0000_0000_00_000000 = some .nop := by decide
theorem test_decode_gcd : decode 0b000000_0_0_0000_0010_0001_0011_00_000001 = some (.gcd 3 1 2) := by decide
theorem test_decode_mulmod : decode 0b000000_0_0_0011_0010_0001_0100_00_000010 = some (.mulmod 4 1 2 3) := by decide
theorem test_decode_modpow : decode 0b000000_0_0_0010_0001_0000_0011_00_000011 = some (.modpow 3 0 1 2) := by decide
theorem test_decode_modinv : decode 0b000000_0_0_0000_0001_0000_0010_00_000100 = some (.modinv 2 0 1) := by decide
theorem test_decode_prime : decode 0b000000_0_0_0000_0000_1100_1101_00_000101 = some (.prime 13 12) := by decide
theorem test_decode_keygen : decode 0b000000_1_0_0010_0001_0000_0000_00_000110 = some (.keygen 0 1 2 false true) := by
  decide
theorem test_decode_keygena : decode 0b000000_0_1_0000_0001_0000_0000_00_000111 = some (.keygena 0 1 true false) := by
  decide
theorem test_decode_encrypt : decode 0b000000_0_0_0000_0000_0011_0100_00_001000 = some (.encrypt 4 3) := by decide
theorem test_decode_decrypt : decode 0b000000_0_0_0000_0000_0100_0101_00_001001 = some (.decrypt 5 4) := by decide
theorem test_decode_deccrt : decode 0b000000_0_0_0000_0000_0100_0110_00_001010 = some (.deccrt 6 4) := by decide
theorem test_decode_clrkey : decode 0b000000_0_0_0000_0000_0000_0000_00_001011 = some .clrkey := by decide

/-- The illegal words of 95_test_vectors.md §2.8. -/
theorem test_decode_illegal :
    [0x00000100, 0x0000000C, 0x0000003F, 0x00000041, 0x04000006, 0x01021301, 0x00300007, 0x00300306, 0x03F10007].all
      (fun w => (decode w).isNone) = true := by decide

/-- Examples of R99. -/
theorem test_asm :
    (decode 0x00021301).map Instr.asm = some "gcd g3, g1, g2" ∧
      (decode 0x03210006).map Instr.asm = some "keygen.val.crt g0, g1, g2" ∧
      (decode 0x02010007).map Instr.asm = some "keygena.crt g0, g1" ∧ (decode 0x00000000).map Instr.asm = some "nop" := by
  decide +kernel

theorem test_table_word : decodeTableWord 32 0x03010007 = some (.keygena 0 1 true true) := by decide

/-! ### The commands, one step each: 95_test_vectors.md §2 and §3 -/

theorem test_nop : after (runWord 0x00000000 State.reset) (fun t => t.statusWord == 0x00000002) = true := by
  decide +kernel

theorem test_gcd : after (runWord 0x00021301 (withRegs [(1, 3120), (2, 4)]))
    (fun t => t.x 3 == 4 && t.statusWord == 0x00010002) = true := by decide +kernel

theorem test_gcd_same_register : after (runWord 0x00011101 (withRegs [(1, 0xFFFFFFFF)]))
    (fun t => t.x 1 == 0xFFFFFFFF) = true := by decide +kernel

theorem test_mulmod_wide : after (runWord 0x00655702 (withRegs [(5, 0xFFFFFFFF), (6, 0xFFFFFFFB)]))
    (fun t => t.x 7 == 16 && t.statusWord == 0x00020002) = true := by decide +kernel

theorem test_mulmod_zero : after (runWord 0x00321402 (withRegs [(1, 65), (2, 65), (4, 9)]))
    (fun t => t.x 4 == 9 && t.statusWord == 0x00020602) = true := by decide +kernel

theorem test_modpow : after (runWord 0x00210303 (withRegs [(0, 65), (1, 17), (2, 3233)]))
    (fun t => t.x 3 == 2790) = true := by decide +kernel

theorem test_modpow_long : after (runWord 0x00698A03 (withRegs [(8, 2), (9, 0xFFFFFFFA), (6, 0xFFFFFFFB)]))
    (fun t => t.x 10 == 1 && t.statusWord == 0x00030002) = true := by decide +kernel

theorem test_modinv : after (runWord 0x00010204 (withRegs [(0, 17), (1, 3120)]))
    (fun t => t.x 2 == 2753) = true := by decide +kernel

theorem test_modinv_one : after (runWord 0x00000204 (withRegs [(0, 1), (2, 7)])) (fun t => t.x 2 == 0) = true := by
  decide +kernel

theorem test_prime : after (runWord 0x00000105 (supplied [2, 3, 50, 95, 10] (withRegs [(0, 97)])))
    (fun t => t.x 1 == 1 && t.env.drawn == 5) = true := by decide +kernel

theorem test_prime_stops : after (runWord 0x0000CE05 (supplied [2, 4, 3, 7] (withRegs [(12, 561), (14, 9)])))
    (fun t => t.x 14 == 0 && t.env.drawn == 3 && t.statusWord == 0x00050002) = true := by decide +kernel

theorem test_keygen :
    after (runWord 0x03210006
        (supplied [2, 10, 30, 45, 59, 2, 3, 17, 40, 51] (withRegs [(0, 61), (1, 53), (2, 17)])))
      (fun t => t.key == k1 && t.statusWord == 0x0006000E && t.env.drawn == 10) = true := by decide +kernel

theorem test_keygen_crt_fails :
    after (runWord 0x02210006 (keyed k1 true (withRegs [(0, 4), (1, 6), (2, 2)])))
      (fun t => t.key == KeyFile.zero && t.statusWord == 0x00060402) = true := by decide +kernel

theorem test_keygena : after (runWord 0x00010007 (withRegs [(0, 61), (1, 53)]))
    (fun t => t.key.e == 7 && t.key.d == 1783 && t.statusWord == 0x00070006) = true := by decide +kernel

theorem test_keygena_wide : after (runWord 0x02010007 (withRegs [(0, 65521), (1, 65519)]))
    (fun t => t.key.e == 11 && t.key.d == 1560996131 && t.key.pinv == 32760) = true := by decide +kernel

theorem test_encrypt : after (runWord 0x00003408 (keyed k1 true (withRegs [(3, 65)])))
    (fun t => t.x 4 == 2790 && t.statusWord == 0x0008000E) = true := by decide +kernel

theorem test_encrypt_no_key : after (runWord 0x00003408 (withRegs [(3, 65), (4, 9)]))
    (fun t => t.x 4 == 9 && t.statusWord == 0x00080802) = true := by decide +kernel

theorem test_decrypt : after (runWord 0x00004509 (keyed k1 true (withRegs [(4, 2790)])))
    (fun t => t.x 5 == 65) = true := by decide +kernel

theorem test_deccrt : after (runWord 0x0000460A (keyed k1 true (withRegs [(4, 2790)])))
    (fun t => t.x 6 == 65) = true := by decide +kernel

theorem test_deccrt_no_crt : after (runWord 0x0000460A (keyed k1 false (withRegs [(4, 2790)])))
    (fun t => t.x 6 == 0 && t.statusWord == 0x000A0806) = true := by decide +kernel

theorem test_clrkey : after (runWord 0x0000000B (keyed k1 true State.reset))
    (fun t => t.key == KeyFile.zero && t.statusWord == 0x000B0002) = true := by decide +kernel

/-! ### The host's side: 95_test_vectors.md §2.8, P3 -/

theorem test_illegal_word : after (runWord 0x0000000C (keyed k1 false State.reset))
    (fun t => t.statusWord == 0x000C0906 && t.cmd == 0x0000000C) = true := by decide +kernel

theorem test_read_refused : after (step (State.reset.withBus [.read 0x14 4]))
    (fun t => t.status.accErr && t.env.resp == some (.read 0 true)) = true := by decide +kernel

theorem test_read_ctrl : after (step (State.reset.withBus [.read 0x08 4]))
    (fun t => t.env.resp == some (.read 0x00000500 false)) = true := by decide +kernel

theorem test_write_ctrl : after (step (State.reset.withBus [.write 0x08 4 0x00000301]))
    (fun t => t.ctrl.irqEn && t.ctrl.wcount == 3) = true := by decide +kernel

theorem test_write_dropped :
    after (step ((busy (latched (.keygen 0 1 2 false false) 61 53 4)).withBus [hostWr (.g 2) 17]))
      (fun t => t.x 2 == 0 && t.status.wrBusy && t.env.resp == some (.write false)) = true := by decide +kernel

theorem test_write_key_refused : after (step ((keyed k1 true State.reset).withBus [hostWr (.key .kd) 0]))
    (fun t => t.key.d == 2753 && t.status.accErr && t.env.resp == some (.write true)) = true := by decide +kernel

/-! ### Witnesses: encoding, issue and the step -/

theorem witness_EncodeOfDecode :
    decode 0x00000000 = some .nop ∧ decode 0x03FFF006 = some (.keygen 15 15 15 true true) := by decide

theorem witness_IssueLatchesOrRefuses :
    State.reset.pend = none ∧ decode 0xFFFFFFFF = none ∧ decode 0x0000000C = none ∧
      decode 0x00FFFF02 = some (.mulmod 15 15 15 15) := by decide

theorem witness_StepRunsDecodedCommand :
    ((busy (latched .nop 0 0 0)).env.resetIn = false ∧ (busy (latched .nop 0 0 0)).pend = some (latched .nop 0 0 0) ∧
      (busy (latched .nop 0 0 0)).env.bus = []) ∧
    ((busy (latched .nop 0 0 0)).withBus [.engine]).env.bus = .engine :: [] ∧
    (State.reset.env.resetIn = false ∧ State.reset.pend = none ∧ decode 0x00021301 = some (.gcd 3 1 2) ∧
      (State.reset.withBus [.write 0x10 4 0x00021301, .engine]).env.bus = .write 0x10 4 0x00021301 :: .engine :: []) ∧
    decodeTableWord 32 0x00021301 = some (.gcd 3 1 2) := by decide

theorem witness_StepStopsOnlyInReset :
    (State.reset.assertReset.withBus [.read 0x00 4]).accessMeetsReset = true ∧
      (State.reset.assertReset.withBus [.engine]).accessMeetsReset = false ∧
      (State.reset.withBus [.read 0x00 4]).accessMeetsReset = false ∧ State.reset.accessMeetsReset = false := by decide

theorem witness_PendingCommandCompletes :
    ((busy (latched .nop 0 0 0)).withBus [.read 0x0C 4]).env.resetIn = false ∧
      Event.assertReset ∉ ((busy (latched .nop 0 0 0)).withBus [.read 0x0C 4]).env.bus := by decide

theorem witness_EndedRunStaysEnded :
    State.reset.final = true ∧ (State.reset.withBus [.engine, .assertReset, .releaseReset]).final = true ∧
      (State.reset.withBus [.engine, .assertReset]).env.bus.head? ≠ some .assertReset ∧
      (State.reset.withBus [.engine, .read 0x00 4]).final = false ∧ (busy (latched .nop 0 0 0)).final = false := by decide

theorem witness_LatchIsUndisturbed :
    (busy (latched .nop 0 0 0)).pend = some (latched .nop 0 0 0) ∧ (hostWr .cmd 0x0B).isAccess = true ∧
      (hostWr .cmd 0x0B).isSoftReset = false ∧
      ∃ t, stepEvent (hostWr .cmd 0x0B) (busy (latched .nop 0 0 0)) = .next t ∧
        (∃ a, exec .nop (busy (latched .nop 0 0 0)) = .next a) ∧ ∃ b, exec .nop t = .next b :=
  ⟨rfl, rfl, rfl, _, rfl, ⟨_, rfl⟩, _, rfl⟩

/-! ### Witnesses: the commands -/

theorem witness_NopCompletes :
    ((0x00000100 : Word).extractLsb' 0 6 = 0 ∧ (0x00000100 : Word) ≠ 0) ∧ State.reset.pend = none ∧
      (busy (latched .nop 0 0 0)).pend = some (latched .nop 0 0 0) := by decide

theorem witness_GcdFnIsGcd : (4 ∣ 3120 ∧ 4 ∣ 4) ∧ 5 ∣ 0 := by decide

theorem witness_GcdWritesGcd : (busy (latched (.gcd 3 3 3) 0 0 0)).pend = some (latched (.gcd 3 3 3) 0 0 0) := by decide

theorem witness_MulmodWritesProduct :
    (busy (latched (.mulmod 0 1 2 3) 7 8 0)).pend = some (latched (.mulmod 0 1 2 3) 7 8 0) ∧
      (latched (.mulmod 0 1 2 3) 7 8 0).v3 = 0 ∧ (latched (.mulmod 0 1 2 3) 7 8 1).v3 ≠ 0 := by decide

theorem witness_ModpowFnIsPower : (0 < 1) ∧ 0 < 7 := by decide

theorem witness_ModpowRoundsAreBits :
    (0 < 1 ∧ 0 < Nat.size 1) ∧ (0xFFFFFFFF < 2 ^ 32 ∧ 31 < Nat.size 0xFFFFFFFF) := by decide +kernel

theorem witness_ModpowWritesPower :
    (busy (latched (.modpow 0 1 2 3) 0 0 0)).pend = some (latched (.modpow 0 1 2 3) 0 0 0) ∧
      (latched (.modpow 0 1 2 3) 0 0 0).v3 = 0 ∧ (latched (.modpow 0 1 2 3) 0 0 1).v3 ≠ 0 := by decide

theorem witness_ModinvFnIsInverse :
    (0 < 4 ∧ 1 < Nat.gcd 6 4) ∧ (0 < 1 ∧ Nat.gcd 1 1 = 1 ∧ 0 < 1 ∧ 1 * 0 % 1 = 1 % 1) ∧
      (0 < 7 ∧ Nat.gcd 3 7 = 1 ∧ 5 < 7 ∧ 3 * 5 % 7 = 1 % 7) := by decide

theorem witness_ModinvWritesInverse :
    (busy (latched (.modinv 0 1 2) 1 0 0)).pend = some (latched (.modinv 0 1 2) 1 0 0) ∧
      (latched (.modinv 0 1 2) 1 0 0).v2 = 0 ∧
      ((latched (.modinv 0 1 2) 0 2 0).v2 ≠ 0 ∧
        1 < Nat.gcd (latched (.modinv 0 1 2) 0 2 0).v1.toNat (latched (.modinv 0 1 2) 0 2 0).v2.toNat) ∧
      ((latched (.modinv 0 1 2) 1 1 0).v2 ≠ 0 ∧
        Nat.gcd (latched (.modinv 0 1 2) 1 1 0).v1.toNat (latched (.modinv 0 1 2) 1 1 0).v2.toNat = 1) := by
  decide +kernel

theorem witness_DrawsFillTheirRange : (5 ≤ 5 ∧ 2 ≤ 2 ∧ 2 ≤ 5 - 2) ∧ (5 ≤ 5 ∧ 2 ≤ 3 ∧ 3 ≤ 5 - 2) := by decide

/-- A pending PRIME of `n`, with the outputs of the random source to come. -/
def primed (n : Nat) (draws : List Nat) : State := supplied draws (busy (latched (.prime 1 0) n 0 0))

theorem witness_PrimeWritesVerdict :
    (primed 1 []).pend = some (latched (.prime 1 0) 1 0 0) ∧
      (u32 1).toNat ≤ 1 ∧ (u32 4).toNat = 4 ∧ (u32 2).toNat = 2 ∧ (u32 3).toNat = 3 ∧
      (5 ≤ (u32 5).toNat ∧ ∀ k, k < (5 : BitVec 8).toNat →
        witnessIn (u32 5).toNat ((primed 5 [2, 3, 2, 3, 2]).raw k) ^ ((u32 5).toNat - 1) % (u32 5).toNat = 1) ∧
      (5 ≤ (u32 15).toNat ∧ 1 < (5 : BitVec 8).toNat ∧
        (∀ j, j < 1 → witnessIn (u32 15).toNat ((primed 15 [4, 7]).raw j) ^ ((u32 15).toNat - 1) % (u32 15).toNat = 1) ∧
        witnessIn (u32 15).toNat ((primed 15 [4, 7]).raw 1) ^ ((u32 15).toNat - 1) % (u32 15).toNat ≠ 1) := by
  decide +kernel

/-- The starting index 5 is that of `q`'s draws after five rounds on `p`. -/
theorem witness_FermatFnVerdict :
    (1 ≤ 1 ∧ 4 = 4) ∧ (2 = 2 ∧ 3 = 3) ∧
      (5 ≤ 5 ∧ ∀ j, j < 2 → witnessIn 5 ((primed 5 [9, 9, 9, 9, 9, 2, 3]).raw (5 + j)) ^ (5 - 1) % 5 = 1) ∧
      (5 ≤ 15 ∧ 1 < 2 ∧
        (∀ j, j < 1 → witnessIn 15 ((primed 15 [9, 9, 9, 9, 9, 4, 7]).raw (5 + j)) ^ (15 - 1) % 15 = 1) ∧
        witnessIn 15 ((primed 15 [9, 9, 9, 9, 9, 4, 7]).raw (5 + 1)) ^ (15 - 1) % 15 ≠ 1) := by decide +kernel

theorem witness_PrimeAcceptsEveryPrime :
    (primed 2 []).pend = some (latched (.prime 1 0) 2 0 0) ∧ Nat.Prime (u32 2).toNat ∧
      (primed 5 []).pend = some (latched (.prime 1 0) 5 0 0) ∧ Nat.Prime (u32 5).toNat :=
  ⟨rfl, Nat.prime_two, rfl, Nat.prime_five⟩

theorem witness_PrimeVerdictDependsOnDraws :
    (primed 15 []).pend = some (latched (.prime 1 0) 15 0 0) ∧ (latched (.prime 1 0) 15 0 0).v1 = 15 ∧
      (latched (.prime 1 0) 15 0 0).wc ≠ 0 := by decide

theorem witness_SearchFindsLeastExponent :
    (Searched 4 3 ∧ ∀ e, Searched 4 e → 3 ≤ e) ∧ (∀ e, ¬ Searched 3 e) ∧ searchE 3 = none ∧ 3 ≤ 3 :=
  ⟨⟨⟨by decide, by decide, by decide, by decide⟩, fun _ h => h.1⟩, fun e h => by have := h.1; have := h.2.2.1; omega,
    by decide, by decide⟩

/-- A pending KEYGEN of `g0`, `g1` and `g2`. -/
def genLatch (val crt : Bool) (p q e : Nat) : Pending := latched (.keygen 0 1 2 val crt) p q e

theorem witness_DerivationWritesOrClears :
    (busy (genLatch false true 2 5 3)).pend = some (genLatch false true 2 5 3) ∧
      keyDeriveFn 2 5 3 false false true 5 State.reset.raw = (.ok k4, 0) ∧
      keyDeriveFn 1 5 3 false false true 5 State.reset.raw = (.error ⟨.notPrime, 1⟩, 0) ∧
      keyDeriveFn 2 5 0 true false true 5 State.reset.raw = (.ok k4, 0) ∧
      keyDeriveFn 2 3 0 true false true 5 State.reset.raw = (.error ⟨.noValidExponent, 0⟩, 0) := by decide +kernel

/-- The hypotheses of both derivations at `p = 2`, `q = 5`, `e = 3`, the least a key can have, with VAL = 0 and 1. -/
theorem witness_KeygenDerivesKey :
    (busy (genLatch false true 2 5 3)).pend = some (genLatch false true 2 5 3) ∧
      PrimesAccepted false (u32 2).toNat (u32 5).toNat 5 State.reset.raw 0 ∧
      PrimesAccepted true (u32 2).toNat (u32 5).toNat 5 (supplied [2, 3, 2, 3, 2] State.reset).raw 5 ∧
      (u32 2 ≠ u32 5 ∧ (u32 2).toNat * (u32 5).toNat ≤ 2 ^ 32 - 1 ∧ 1 < (u32 3).toNat ∧
        (u32 3).toNat < ((u32 2).toNat - 1) * ((u32 5).toNat - 1) ∧
        Nat.gcd (u32 3).toNat (((u32 2).toNat - 1) * ((u32 5).toNat - 1)) = 1 ∧
        Nat.gcd (u32 2).toNat (u32 5).toNat = 1) :=
  ⟨rfl, .inl (by decide), .inr (by decide +kernel), by decide +kernel⟩

theorem witness_KeygenaDerivesKey :
    (busy (latched (.keygena 0 1 false true) 2 5 0)).pend = some (latched (.keygena 0 1 false true) 2 5 0) ∧
      PrimesAccepted false (u32 2).toNat (u32 5).toNat 5 State.reset.raw 0 ∧
      u32 2 ≠ u32 5 ∧ (u32 2).toNat * (u32 5).toNat ≤ 2 ^ 32 - 1 ∧
      (Searched (((u32 2).toNat - 1) * ((u32 5).toNat - 1)) 3 ∧
        ∀ e, Searched (((u32 2).toNat - 1) * ((u32 5).toNat - 1)) e → 3 ≤ e) ∧
      Nat.gcd (u32 2).toNat (u32 5).toNat = 1 :=
  ⟨rfl, .inl (by decide), by decide, by decide, ⟨⟨by decide, by decide, by decide, by decide⟩, fun _ h => h.1⟩,
    by decide⟩

theorem witness_RefusedPrimesClearTheKey :
    (busy (genLatch false false 1 5 3)).pend = some (genLatch false false 1 5 3) ∧
      (u32 1).toNat < 2 ∧ (2 ≤ (u32 2).toNat ∧ (u32 1).toNat < 2) ∧
      fermatFn (u32 4).toNat 5 State.reset.raw 0 = (false, 0) ∧
      (fermatFn (u32 5).toNat 5 (supplied [2, 3, 2, 3, 2, 2] State.reset).raw 0 = (true, 5) ∧
        fermatFn (u32 15).toNat 5 (supplied [2, 3, 2, 3, 2, 2] State.reset).raw 5 = (false, 6)) := by decide +kernel

theorem witness_LaterChecksClearTheKey :
    (busy (genLatch false true 2 5 1)).pend = some (genLatch false true 2 5 1) ∧
      PrimesAccepted false (u32 2).toNat (u32 2).toNat 5 State.reset.raw 0 ∧
      PrimesAccepted false (u32 65537).toNat (u32 65539).toNat 5 State.reset.raw 0 ∧
      2 ^ 32 - 1 < (u32 65537).toNat * (u32 65539).toNat ∧
      ((u32 1).toNat ≤ 1 ∧ ((u32 2).toNat - 1) * ((u32 5).toNat - 1) ≤ (u32 4).toNat ∧
        Nat.gcd (u32 2).toNat (((u32 2).toNat - 1) * ((u32 5).toNat - 1)) ≠ 1) ∧
      (PrimesAccepted false (u32 2).toNat (u32 3).toNat 5 State.reset.raw 0 ∧
        ∀ e, ¬ Searched (((u32 2).toNat - 1) * ((u32 3).toNat - 1)) e) ∧
      (PrimesAccepted false (u32 4).toNat (u32 6).toNat 5 State.reset.raw 0 ∧
        1 < Nat.gcd (u32 4).toNat (u32 6).toNat ∧ 1 < (u32 2).toNat ∧
        (u32 2).toNat < ((u32 4).toNat - 1) * ((u32 6).toNat - 1) ∧
        Nat.gcd (u32 2).toNat (((u32 4).toNat - 1) * ((u32 6).toNat - 1)) = 1) ∧
      ∃ e, Searched (((u32 4).toNat - 1) * ((u32 6).toNat - 1)) e :=
  ⟨rfl, .inl (by decide), .inl (by decide), by decide, by decide,
    ⟨.inl (by decide), fun e h => by
      have h1 := h.1
      have h2 : e < 2 := h.2.2.1
      omega⟩,
    ⟨.inl (by decide), by decide, by decide, by decide, by decide⟩,
    7, ⟨by decide, by decide, by decide, by decide⟩⟩

theorem witness_NoInverseOnlyFromCrt :
    chooseE 3 false ((2 - 1) * (5 - 1)) = .ok 3 ∧ (busy (genLatch false true 4 6 2)).pend = some (genLatch false true 4 6 2) ∧
      (Instr.keygen 0 1 2 false true).derivesKey = true ∧
      ∃ t, exec (.keygen 0 1 2 false true) (busy (genLatch false true 4 6 2)) = .next t ∧ t.status.err = .noInverse :=
  ⟨by decide +kernel, rfl, rfl, _, rfl, by decide +kernel⟩

theorem witness_ClrkeyClears : (busy (latched .clrkey 0 0 0)).pend = some (latched .clrkey 0 0 0) := by decide

/-- A pending cipher command under K1. -/
def ciphered (i : Instr) (v : Nat) : State := keyed k1 true (busy (latched i v 0 0))

theorem witness_EncryptWritesPower :
    (ciphered (.encrypt 4 3) 65).pend = some (latched (.encrypt 4 3) 65 0 0) ∧
      (ciphered (.encrypt 4 3) 65).status.keyValid = true ∧ (ciphered (.encrypt 4 3) 65).key.n ≠ 0 ∧
      (busy (latched (.encrypt 4 3) 65 0 0)).status.keyValid = false := by decide

theorem witness_DecryptWritesPower :
    (ciphered (.decrypt 5 4) 65).pend = some (latched (.decrypt 5 4) 65 0 0) ∧
      (ciphered (.decrypt 5 4) 65).status.keyValid = true ∧ (ciphered (.decrypt 5 4) 65).key.n ≠ 0 ∧
      (busy (latched (.decrypt 5 4) 65 0 0)).status.keyValid = false := by decide

/-- The residues and `h` are those of 44_cipher.md R233's example. -/
theorem witness_DeccrtWritesGarner :
    (ciphered (.deccrt 6 4) 2790).pend = some (latched (.deccrt 6 4) 2790 0 0) ∧
      (ciphered (.deccrt 6 4) 2790).status.crtValid = true ∧
      ((ciphered (.deccrt 6 4) 2790).key.p ≠ 0 ∧ (ciphered (.deccrt 6 4) 2790).key.q ≠ 0) ∧
      (4 = (u32 2790).toNat ^ k1.dp.toNat % k1.p.toNat ∧ 12 = (u32 2790).toNat ^ k1.dq.toNat % k1.q.toNat ∧
        (1 : Int) = (k1.qinv.toNat : Int) * (((4 : Int) - 12) % k1.p.toNat) % k1.p.toNat) ∧
      (keyed k1 false State.reset).status.crtValid = false := by decide +kernel

theorem k1_holds : k1.Holds := by constructor <;> decide +kernel
theorem k1_crtHolds : k1.CrtHolds := by constructor <;> decide +kernel
theorem k4_holds : k4.Holds := by constructor <;> decide +kernel
theorem k4_crtHolds : k4.CrtHolds := by constructor <;> decide +kernel

/-- Any state holding a whole key with CRT parameters meets R25. -/
theorem keyed_keyInv {k : KeyFile} (h : k.Holds) (hc : k.CrtHolds) (s : State) : (keyed k true s).KeyInv where
  empty := fun h => by cases h
  crt_key := fun _ => rfl
  no_crt := fun _ h => by cases h
  holds := fun _ => h
  crt_holds := fun _ => hc

theorem witness_ValidModulusIsAtLeastSix :
    (keyed k4 true State.reset).KeyInv ∧ (keyed k4 true State.reset).status.keyValid = true := ⟨keyed_keyInv k4_holds k4_crtHolds _, rfl⟩

theorem witness_GarnerIsTheCrtSolution :
    (1 < 2 ∧ 0 < 1 ∧ 1 * 1 % 2 = 1) ∧ (1 < 61 ∧ 0 < 53 ∧ 53 * 38 % 61 = 1) := by decide

theorem witness_DecryptionInvertsEncryption :
    (ciphered (.encrypt 4 3) 3232).KeyInv ∧ (ciphered (.encrypt 4 3) 3232).status.keyValid = true ∧
      Nat.Prime (ciphered (.encrypt 4 3) 3232).key.p.toNat ∧ Nat.Prime (ciphered (.encrypt 4 3) 3232).key.q.toNat ∧
      (ciphered (.encrypt 4 3) 3232).pend = some (latched (.encrypt 4 3) 3232 0 0) ∧
      (u32 3232).toNat < (ciphered (.encrypt 4 3) 3232).key.n.toNat ∧
      ∃ t, exec (.encrypt 4 3) (ciphered (.encrypt 4 3) 3232) = .next t ∧
        (ciphered (.decrypt 5 4) (t.x 4).toNat).key = t.key ∧
        (ciphered (.decrypt 5 4) (t.x 4).toNat).status.keyValid = true ∧
        (ciphered (.decrypt 5 4) (t.x 4).toNat).pend = some (latched (.decrypt 5 4) (t.x 4).toNat 0 0) ∧
        (latched (.decrypt 5 4) (t.x 4).toNat 0 0).v1 = t.x 4 :=
  ⟨keyed_keyInv k1_holds k1_crtHolds _, rfl, (by norm_num : Nat.Prime 61), (by norm_num : Nat.Prime 53), rfl, by decide, _, rfl, rfl, rfl, rfl,
    by simp [latched, u32]⟩

/-- The second clause's key is K4, with the ciphertext 4. -/
theorem witness_CrtDecryptionEqualsDirect :
    ((ciphered (.deccrt 6 4) 2790).KeyInv ∧ (ciphered (.deccrt 6 4) 2790).status.crtValid = true ∧
      Nat.Prime (ciphered (.deccrt 6 4) 2790).key.p.toNat ∧ Nat.Prime (ciphered (.deccrt 6 4) 2790).key.q.toNat ∧
      3 ≤ (ciphered (.deccrt 6 4) 2790).key.p.toNat ∧ 3 ≤ (ciphered (.deccrt 6 4) 2790).key.q.toNat ∧
      (ciphered (.deccrt 6 4) 2790).pend = some (latched (.deccrt 6 4) 2790 0 0)) ∧
    ((keyed k4 true (busy (latched (.deccrt 6 4) 4 0 0))).status.crtValid = true ∧
      (keyed k4 true (busy (latched (.deccrt 6 4) 4 0 0))).status.keyValid = true ∧
      (keyed k4 true (busy (latched (.deccrt 6 4) 4 0 0))).key = k4 ∧
      (keyed k4 true (busy (latched (.deccrt 6 4) 4 0 0))).pend = some (latched (.deccrt 6 4) 4 0 0) ∧
      (latched (.deccrt 6 4) 4 0 0).v1 = 4) :=
  ⟨⟨keyed_keyInv k1_holds k1_crtHolds _, rfl, (by norm_num : Nat.Prime 61), (by norm_num : Nat.Prime 53), by decide, by decide, rfl⟩,
    rfl, rfl, rfl, rfl, rfl⟩

/-! ### Witnesses: all commands -/

theorem witness_CompletionFrame :
    (∃ t, exec (.gcd 3 1 2) (busy (latched (.gcd 3 1 2) 0 0 0)) = .next t) ∧ (0 : RegIdx) ≠ (Instr.gcd 3 1 2).fields.rd ∧
      (Instr.gcd 3 1 2).derivesKey = false ∧ Instr.gcd 3 1 2 ≠ .clrkey ∧ (Instr.gcd 3 1 2).draws = false ∧
      (∃ t, exec (.keygen 0 1 2 false true) (busy (genLatch false true 2 5 3)) = .next t) ∧
      (Instr.keygen 0 1 2 false true).derivesKey = true :=
  ⟨⟨_, rfl⟩, by decide, rfl, by decide, rfl, ⟨_, rfl⟩, rfl⟩

theorem witness_ErrorsWriteNoRegister :
    (∃ t, exec (.mulmod 0 1 2 3) (busy (latched (.mulmod 0 1 2 3) 7 8 0)) = .next t ∧ t.status.err ≠ .ok ∧
      (Instr.mulmod 0 1 2 3).derivesKey = false) ∧
    ∃ t, exec (.keygen 0 1 2 false true) (busy (genLatch false true 1 5 3)) = .next t ∧ t.status.err ≠ .ok ∧
      (Instr.keygen 0 1 2 false true).derivesKey = true :=
  ⟨⟨_, rfl, by decide +kernel, rfl⟩, _, rfl, by decide +kernel, rfl⟩

theorem witness_ErrorCodesByCommand :
    (∃ t, exec (.mulmod 0 1 2 3) (busy (latched (.mulmod 0 1 2 3) 7 8 0)) = .next t ∧ t.status.err ≠ .notPrime) ∧
    (∃ t, exec (.keygen 0 1 2 false true) (busy (genLatch false true 1 5 3)) = .next t ∧ t.status.err = .notPrime) ∧
    ([.ok, .notPrime, .invalidPublicExponent, .noValidExponent, .noInverse, .operandOverflow, .zeroModulus, .equalPrimes,
      .noKey, .illegalCommand].map fun c => (State.reset.raise c 0).status.err) =
      [.ok, .notPrime, .invalidPublicExponent, .noValidExponent, .noInverse, .operandOverflow, .zeroModulus, .equalPrimes,
        .noKey, .illegalCommand] :=
  ⟨⟨_, rfl, by decide +kernel⟩, ⟨_, rfl, by decide +kernel⟩, rfl⟩

theorem witness_OnlyFourEventsWriteTheKey :
    (∃ t, step (keyed k1 true (busy (latched .clrkey 0 0 0))) = .next t ∧
      t.key ≠ (keyed k1 true (busy (latched .clrkey 0 0 0))).key) ∧
    ∃ t, step ((keyed k1 true State.reset).withBus [hostWr .ctrl 2]) = .next t ∧
      t.key ≠ ((keyed k1 true State.reset).withBus [hostWr .ctrl 2]).key :=
  ⟨⟨_, rfl, by decide⟩, _, rfl, by decide⟩

theorem witness_StepKeepsKeyInvariants :
    (ciphered (.encrypt 4 3) 65).KeyInv ∧ ∃ t, step (ciphered (.encrypt 4 3) 65) = .next t := ⟨keyed_keyInv k1_holds k1_crtHolds _, _, rfl⟩

/-- The state after the issue of `clrkey` on the reset machine, with its completion next. -/
theorem witness_StepKeepsControlInvariants :
    (issue 0x0000000B State.reset).ControlInv ∧ ∃ t, step (issue 0x0000000B State.reset) = .next t :=
  ⟨{ latch := fun p h => by
       have hp : State.reset.latch .clrkey = p := Option.some.inj h
       subst hp
       exact ⟨by decide, rfl, rfl, rfl, rfl, rfl, rfl⟩
     last_opc := by decide
     info_other := fun _ => rfl
     info_prime := fun h => by cases h
     in_reset := fun h => by cases h }, _, rfl⟩

theorem witness_OnlyCipherReadsKeyAndFlags :
    (Instr.keygen 0 1 2 false true).readsKey = false ∧
      (∃ t, exec (.keygen 0 1 2 false true) (busy (genLatch false true 2 5 3)) = .next t) ∧
      (∃ u, exec (.keygen 0 1 2 false true)
        { busy (genLatch false true 2 5 3) with key := k1, status := (keyed k1 true State.reset).status } = .next u) ∧
      (Instr.keygen 0 1 2 false true).derivesKey = true :=
  ⟨rfl, ⟨_, rfl⟩, ⟨_, rfl⟩, rfl⟩

/-! ### Witnesses: the host's side -/

theorem witness_RegisterMapIsExact :
    regAt 0x10 = some .cmd ∧ regAt 0x40 = some (.g 0) ∧ regAt 0x7C = some (.g 15) ∧ regAt 0x80 = some (.key .kp) ∧
      regAt 0xA4 = some (.key .kpinv) ∧ regAt 0x14 = none ∧ regAt 0x3C = none ∧ regAt 0xA8 = none ∧ regAt 0xFC = none := by
  decide

theorem witness_RefusedAccesses :
    ((2 : Nat) ≠ 4 ∧ (0x42 : BitVec 8).toNat % 4 ≠ 0 ∧ (0x14 ≤ (0x14 : BitVec 8).toNat ∧ (0x14 : BitVec 8).toNat < 0x40) ∧
      (0x14 ≤ (0x3C : BitVec 8).toNat ∧ (0x3C : BitVec 8).toNat < 0x40) ∧ 0xA8 ≤ (0xA8 : BitVec 8).toNat) ∧
    ((0x80 ≤ (0x80 : BitVec 8).toNat ∧ (0x80 : BitVec 8).toNat < 0xA8) ∧
      (0x80 ≤ (0xA4 : BitVec 8).toNat ∧ (0xA4 : BitVec 8).toNat < 0xA8)) ∧
    ((0x10 : BitVec 8).toNat % 4 = 0 ∧ (0x10 : BitVec 8).toNat < 0x14 ∧ (0xA4 : BitVec 8).toNat % 4 = 0 ∧
      0x40 ≤ (0xA4 : BitVec 8).toNat ∧ (0xA4 : BitVec 8).toNat < 0xA8) := by decide

theorem witness_ReadsReturnRegisters :
    (1 : Nat) ≠ 4 ∧ (0x0E : BitVec 8).toNat % 4 ≠ 0 ∧ (0x14 ≤ (0x14 : BitVec 8).toNat ∧ (0x14 : BitVec 8).toNat < 0x40) ∧
      0xA8 ≤ (0xFC : BitVec 8).toNat := by decide

theorem witness_WritesUpdateRegisters :
    0xA8 ≤ (0xA8 : BitVec 8).toNat ∧ (0x00000002 : Word).getLsbD 1 = true ∧ (0x00000301 : Word).getLsbD 1 = false ∧
      (busy (latched .nop 0 0 0)).pend ≠ none ∧ State.reset.pend = none ∧ (1 : RegIdx) ≠ 0 := by decide

theorem witness_BothResetsClearEverything :
    State.reset.env.resetIn = false ∧ (hostWr .ctrl 0x00000002).isSoftReset = true ∧
      (hostWr .ctrl 0xFFFFFFFF).isSoftReset = true := by decide

theorem witness_ResetInputHoldsTheEngine :
    State.reset.assertReset.env.resetIn = true ∧ (hostRd .id).isAccess = true ∧ (hostWr .ctrl 2).isAccess = true := by
  decide

theorem witness_InterruptLevel :
    (∃ t, exec .nop (busy (latched .nop 0 0 0)) = .next t) ∧ decode 0x0000000C = none ∧
      (decode 0x00000000).isSome = true ∧ (0x00000002 : Word).getLsbD 1 = true ∧
      (0x00000001 : Word).getLsbD 1 = false ∧
      ((2 : Nat) ≠ 4 ∧ (0x42 : BitVec 8).toNat % 4 ≠ 0 ∧ 0x14 ≤ (0x14 : BitVec 8).toNat ∧ (0x14 : BitVec 8).toNat < 0x40 ∧
        0xA8 ≤ (0xA8 : BitVec 8).toNat) ∧
      (0x80 ≤ (0xA4 : BitVec 8).toNat ∧ (0xA4 : BitVec 8).toNat < 0xA8) :=
  ⟨⟨_, rfl⟩, by decide, by decide, by decide, by decide, by decide, by decide⟩

theorem witness_ByteLanesAreLittleEndian : 0 < 4 ∧ 3 < 4 := by decide

theorem witness_WindowAddresses : Config.engineBase + 256 ≤ Config.engineBase + 256 := Nat.le_refl _

theorem witness_DutifulHostIsNeverFlagged :
    ((∃ t, stepEvent (hostWr (.g 0) 5) State.reset = .next t) ∧ (hostWr (.g 0) 5).dutiful State.reset = true) ∧
    ((∃ t, stepEvent (hostWr (.g 0) 5) (busy (latched .nop 0 0 0)) = .next t) ∧
      (hostWr (.g 0) 5).dutiful (busy (latched .nop 0 0 0)) = false) ∧
    ((∃ t, stepEvent (.read 0x14 4) State.reset = .next t) ∧ (Event.read 0x14 4).dutiful State.reset = false) :=
  ⟨⟨⟨_, rfl⟩, by decide⟩, ⟨⟨_, rfl⟩, by decide⟩, ⟨_, rfl⟩, by decide⟩

end Sys2Proof.Tests
end

section
/-! The reset state's registers as the host reads them (10_state.md R36). -/

namespace Sys2Proof.Machine

@[simp] theorem KeyFile.read_zero (k : KeyReg) : KeyFile.zero.read k = 0 := by
  cases k <;> rfl

theorem State.reset_key_read (k : KeyReg) : State.reset.key.read k = 0 := KeyFile.read_zero k

theorem State.reset_ctrl_word : State.reset.ctrl.word = 0x00000500 := by decide

theorem State.reset_statusWord : State.reset.statusWord = 0x00000000 := by decide

theorem State.reset_irq : State.reset.irq = false := rfl

@[simp] theorem readReg_id (s : State) : readReg s .id = 0x52534145 := rfl

@[simp] theorem readReg_version (s : State) : readReg s .version = 0x00000001 := rfl

/-- Settles O51, register by register: the sixteen general registers at once, the ten key registers by the zero key
file, the two packed words by evaluation, and the constants, which no state changes. -/
theorem resetValues : Obligations.ResetValues := by
  unfold Obligations.ResetValues
  exact ⟨State.x_reset, State.reset_key_read, State.reset_ctrl_word, State.reset_statusWord, rfl, rfl, State.reset_irq,
    readReg_id _, readReg_version _⟩

end Sys2Proof.Machine
end

section
/-! A field of a word, read back (R11): at its own position it is the field, and outside it the word has only zeros. -/

namespace Sys2Proof

theorem getLsbD_fieldAt {n : Nat} (pos : Nat) (v : BitVec n) (k : Nat) :
    (fieldAt pos v).getLsbD k = (decide (k < 32) && decide (pos ≤ k) && v.getLsbD (k - pos)) := by
  by_cases hk : k < 32
  · by_cases hp : pos ≤ k
    · simp [fieldAt, hk, hp, Nat.not_lt.mpr]
    · simp [fieldAt, hk, hp, Nat.lt_of_not_le]
  · simp [fieldAt, hk]

@[simp] theorem getElem_fieldAt {n : Nat} (pos : Nat) (v : BitVec n) (k : Nat) (h : k < 32) :
    (fieldAt pos v)[k] = (decide (pos ≤ k) && v.getLsbD (k - pos)) := by
  rw [← BitVec.getLsbD_eq_getElem, getLsbD_fieldAt]
  simp [h]

@[simp] theorem getElem_bitAt (pos : Nat) (b : Bool) (k : Nat) (h : k < 32) :
    (bitAt pos b)[k] = (decide (k = pos) && b) := by
  rcases Nat.lt_trichotomy k pos with below | rfl | above
  · simp [bitAt, below.ne, below]
  · simp [bitAt]
  · simp [bitAt, above.ne', BitVec.getLsbD_of_ge (BitVec.ofBool b) (k - pos) (by omega)]

theorem extractLsb'_fieldAt_same {n pos : Nat} (v : BitVec n) (h : pos + n ≤ 32) :
    (fieldAt pos v).extractLsb' pos n = v := by
  ext k hk
  simp [show pos + k < 32 by omega, BitVec.getLsbD_eq_getElem hk]

theorem extractLsb'_fieldAt_apart {n pos start len : Nat} (v : BitVec n)
    (h : start + len ≤ pos ∨ pos + n ≤ start) :
    (fieldAt pos v).extractLsb' start len = 0 := by
  ext k hk
  rcases h with below | above
  · simp [getLsbD_fieldAt, show ¬ pos ≤ start + k by omega]
  · simp [getLsbD_fieldAt, BitVec.getLsbD_of_ge v (start + k - pos) (by omega)]

theorem extractLsb'_bitAt_apart {pos start len : Nat} (b : Bool) (h : start + len ≤ pos ∨ pos < start) :
    (bitAt pos b).extractLsb' start len = 0 :=
  extractLsb'_fieldAt_apart _ h

end Sys2Proof
end

section
/-! The CTRL and STATUS words as the host reads them (R28, R29), and what a write to either makes of its value (R62,
R64). -/

namespace Sys2Proof.Machine

/-! ### STATUS, bit by bit -/

theorem State.statusWord_busy (s : State) : s.statusWord.getLsbD 0 = s.pend.isSome := by
  simp [State.statusWord, Status.word, State.busy]

theorem State.statusWord_done (s : State) : s.statusWord.getLsbD 1 = s.status.done := by
  simp [State.statusWord, Status.word]

theorem State.statusWord_keyValid (s : State) : s.statusWord.getLsbD 2 = s.status.keyValid := by
  simp [State.statusWord, Status.word]

theorem State.statusWord_crtValid (s : State) : s.statusWord.getLsbD 3 = s.status.crtValid := by
  simp [State.statusWord, Status.word]

theorem State.statusWord_wrBusy (s : State) : s.statusWord.getLsbD 4 = s.status.wrBusy := by
  simp [State.statusWord, Status.word]

theorem State.statusWord_accErr (s : State) : s.statusWord.getLsbD 5 = s.status.accErr := by
  simp [State.statusWord, Status.word]

/-- STATUS in a window of bits, field by field. -/
theorem State.extractLsb'_statusWord (s : State) (start len : Nat) (h : 6 ≤ start) :
    s.statusWord.extractLsb' start len =
      (fieldAt 8 s.status.err.code).extractLsb' start len ||| (fieldAt 12 s.status.errInfo).extractLsb' start len |||
        (fieldAt 16 s.status.lastOpc).extractLsb' start len := by
  have flag (pos : Nat) (b : Bool) (hp : pos < 6) : (bitAt pos b).extractLsb' start len = 0 :=
    extractLsb'_bitAt_apart b (.inr (by omega))
  simp [State.statusWord, Status.word, BitVec.extractLsb'_or, flag]

theorem State.statusWord_reserved_low (s : State) : s.statusWord.extractLsb' 6 2 = 0 := by
  simp [s.extractLsb'_statusWord, extractLsb'_fieldAt_apart]

theorem State.statusWord_err (s : State) : s.statusWord.extractLsb' 8 4 = s.status.err.code := by
  simp [s.extractLsb'_statusWord, extractLsb'_fieldAt_apart, extractLsb'_fieldAt_same]

theorem State.statusWord_errInfo (s : State) : s.statusWord.extractLsb' 12 4 = s.status.errInfo := by
  simp [s.extractLsb'_statusWord, extractLsb'_fieldAt_apart, extractLsb'_fieldAt_same]

theorem State.statusWord_lastOpc (s : State) : s.statusWord.extractLsb' 16 6 = s.status.lastOpc := by
  simp [s.extractLsb'_statusWord, extractLsb'_fieldAt_apart, extractLsb'_fieldAt_same]

theorem State.statusWord_reserved_high (s : State) : s.statusWord.extractLsb' 22 10 = 0 := by
  simp [s.extractLsb'_statusWord, extractLsb'_fieldAt_apart]

/-! ### CTRL, bit by bit -/

theorem Ctrl.word_irqEn (c : Ctrl) : c.word.getLsbD 0 = c.irqEn := by
  simp [Ctrl.word]

theorem Ctrl.word_srst (c : Ctrl) : c.word.getLsbD 1 = false := by
  simp [Ctrl.word]

theorem Ctrl.word_reserved_low (c : Ctrl) : c.word.extractLsb' 2 6 = 0 := by
  simp [Ctrl.word, BitVec.extractLsb'_or, extractLsb'_bitAt_apart, extractLsb'_fieldAt_apart]

theorem Ctrl.word_wcount (c : Ctrl) : c.word.extractLsb' 8 8 = c.wcount := by
  simp [Ctrl.word, BitVec.extractLsb'_or, extractLsb'_bitAt_apart, extractLsb'_fieldAt_same]

theorem Ctrl.word_reserved_high (c : Ctrl) : c.word.extractLsb' 16 16 = 0 := by
  simp [Ctrl.word, BitVec.extractLsb'_or, extractLsb'_bitAt_apart, extractLsb'_fieldAt_apart]

/-! ### Writes to CTRL and STATUS -/

/-- Only SRST, IRQ_EN and WCOUNT of a value written to CTRL count (R62). -/
theorem writeReg_ctrl_mask (v : Word) (s : State) : writeReg s (v &&& 0x0000FF03) .ctrl = writeReg s v .ctrl := by
  have srst : (v &&& 0x0000FF03).getLsbD 1 = v.getLsbD 1 := by simp
  have irqEn : (v &&& 0x0000FF03).getLsbD 0 = v.getLsbD 0 := by simp
  have wcount : (v &&& 0x0000FF03).extractLsb' 8 8 = v.extractLsb' 8 8 := by
    rw [BitVec.extractLsb'_and, show (0x0000FF03 : Word).extractLsb' 8 8 = BitVec.allOnes 8 by decide,
      BitVec.and_allOnes]
  simp only [writeReg, writeCtrl, srst, Ctrl.ofWord, irqEn, wcount]

/-- A 1 clears DONE, WR_BUSY or ACC_ERR, a 0 leaves it (R64). -/
theorem Status.clearW1C_eq (t : Status) (v : Word) :
    t.clearW1C v =
      { t with
        done := if v.getLsbD 1 then false else t.done
        wrBusy := if v.getLsbD 4 then false else t.wrBusy
        accErr := if v.getLsbD 5 then false else t.accErr } := by
  have cleared (f b : Bool) : (f && !b) = if b then false else f := by cases b <;> simp
  simp only [Status.clearW1C, cleared]

/-- Only the three W1C bits of a value written to STATUS count (R62). -/
theorem writeReg_status_mask (v : Word) (s : State) :
    writeReg s (v &&& 0x00000032) .status = writeReg s v .status := by
  simp [writeReg, Status.clearW1C]

end Sys2Proof.Machine
end

section
/-! The register map read both ways (R61), which accesses have no register (R62), and what an access to a register at
its own offset does (R63, R64). -/

namespace Sys2Proof.Machine

/-! ### The map -/

@[simp] theorem keyRegOf_number (k : KeyReg) : keyRegOf k.number = some k := by
  cases k <;> rfl

theorem keyRegOf_eq_none_iff (n : Nat) : keyRegOf n = none ↔ 10 ≤ n := by
  by_cases h : n < 10
  · interval_cases n <;> decide
  · obtain ⟨m, rfl⟩ := Nat.exists_eq_add_of_le' (Nat.le_of_not_lt h)
    simp [keyRegOf]

theorem number_of_keyRegOf {n : Nat} {k : KeyReg} (h : keyRegOf n = some k) : k.number = n := by
  have hn : n < 10 := by
    by_contra hge
    simp [(keyRegOf_eq_none_iff n).mpr (by omega)] at h
  interval_cases n <;> cases h <;> rfl

theorem Reg.toNat_offset_g (i : RegIdx) : (Reg.g i).offset.toNat = 0x40 + 4 * i.toNat := by
  have hi := i.isLt
  simp only [Reg.offset, BitVec.toNat_ofNat]
  omega

theorem Reg.toNat_offset_key (k : KeyReg) : (Reg.key k).offset.toNat = 0x80 + 4 * k.number := by
  cases k <;> rfl

theorem regOfIndex_eq_none_iff (k : Nat) : regOfIndex k = none ↔ (5 ≤ k ∧ k < 16) ∨ 42 ≤ k := by
  unfold regOfIndex
  split_ifs <;> simp [keyRegOf_eq_none_iff] <;> omega

theorem regOfIndex_g (i : RegIdx) : regOfIndex (16 + i.toNat) = some (.g i) := by
  have hi := i.isLt
  simp (disch := omega) only [regOfIndex, if_neg, if_pos, Nat.add_sub_cancel_left, BitVec.ofNat_toNat,
    BitVec.setWidth_eq]

theorem regOfIndex_key (n : Nat) : regOfIndex (32 + n) = (keyRegOf n).map .key := by
  simp (disch := omega) only [regOfIndex, if_neg, Nat.add_sub_cancel_left]

/-- Each block of the map at its offsets: the five control registers, the general registers, the key file. -/
theorem toNat_offset_of_regOfIndex {k : Nat} {r : Reg} (h : regOfIndex k = some r) : r.offset.toNat = 4 * k := by
  have mapped : ¬ ((5 ≤ k ∧ k < 16) ∨ 42 ≤ k) := by simp [← regOfIndex_eq_none_iff, h]
  obtain control | general | key : k < 5 ∨ (16 ≤ k ∧ k < 32) ∨ 32 ≤ k := by omega
  · interval_cases k <;> obtain rfl := Option.some.inj h <;> rfl
  · obtain ⟨i, rfl⟩ : ∃ i : RegIdx, k = 16 + i.toNat := ⟨BitVec.ofNat 4 (k - 16), by simp; omega⟩
    obtain rfl := Option.some.inj ((regOfIndex_g i).symm.trans h)
    rw [Reg.toNat_offset_g]
    omega
  · obtain ⟨n, rfl⟩ := Nat.exists_eq_add_of_le key
    rw [regOfIndex_key] at h
    obtain ⟨kr, hkr, rfl⟩ := Option.map_eq_some_iff.mp h
    rw [Reg.toNat_offset_key, number_of_keyRegOf hkr]
    omega

@[simp] theorem regAt_offset (r : Reg) : regAt r.offset = some r := by
  cases r with
  | g i => simp [regAt, Reg.toNat_offset_g, regOfIndex_g, show 0x40 + 4 * i.toNat = 4 * (16 + i.toNat) by omega]
  | key k =>
    simp [regAt, Reg.toNat_offset_key, regOfIndex_key,
      show 0x80 + 4 * k.number = 4 * (32 + k.number) by omega]
  | id => rfl
  | version => rfl
  | ctrl => rfl
  | status => rfl
  | cmd => rfl

/-- No register stands at two offsets (R61). -/
theorem offset_of_regAt {off : BitVec 8} {r : Reg} (h : regAt off = some r) : r.offset = off := by
  unfold regAt at h
  split_ifs at h with aligned
  have := toNat_offset_of_regOfIndex h
  exact BitVec.eq_of_toNat_eq (by omega)

theorem regAt_eq_none_iff (off : BitVec 8) :
    regAt off = none ↔
      off.toNat % 4 ≠ 0 ∨ (0x14 ≤ off.toNat ∧ off.toNat < 0x40) ∨ 0xA8 ≤ off.toNat := by
  by_cases h : off.toNat % 4 = 0
  · simp only [regAt, h, if_true, regOfIndex_eq_none_iff]
    omega
  · simp [regAt, h]

/-- The accesses without a register are those of a wrong size, alignment or offset (R62). -/
theorem accessAt_eq_none_iff (off : BitVec 8) (size : Nat) :
    accessAt off size = none ↔
      size ≠ 4 ∨ off.toNat % 4 ≠ 0 ∨ (0x14 ≤ off.toNat ∧ off.toNat < 0x40) ∨ 0xA8 ≤ off.toNat := by
  by_cases h : size = 4
  · simp [accessAt, h, regAt_eq_none_iff]
  · simp [accessAt, h]

@[simp] theorem accessAt_offset (r : Reg) : accessAt r.offset 4 = some r := regAt_offset r

theorem offset_of_accessAt {off : BitVec 8} {size : Nat} {r : Reg} (h : accessAt off size = some r) :
    r.offset = off := by
  unfold accessAt at h
  split_ifs at h
  exact offset_of_regAt h

/-! ### Accesses -/

theorem hostRead_offset (r : Reg) (s : State) : hostRead r.offset 4 s = s.respond (.read (readReg s r) false) :=
  hostRead_mapped (accessAt_offset r)

theorem hostWrite_offset (r : Reg) (v : Word) (s : State) :
    hostWrite r.offset 4 v s = (writeReg s v r).1.respond (.write (writeReg s v r).2) :=
  hostWrite_mapped (accessAt_offset r)

/-- The registers at the offsets of ID, VERSION and the key file are read-only. -/
theorem writeReg_readOnly {r : Reg} (v : Word) (s : State)
    (h : r.offset = 0x00 ∨ r.offset = 0x04 ∨ (0x80 ≤ r.offset.toNat ∧ r.offset.toNat < 0xA8)) :
    writeReg s v r = (s.flagAccess, true) := by
  cases r with
  | id => rfl
  | version => rfl
  | key k => rfl
  | ctrl => simp [Reg.offset] at h
  | status => simp [Reg.offset] at h
  | cmd => simp [Reg.offset] at h
  | g i =>
    have hoff := Reg.toNat_offset_g i
    bv_omega

/-- A write to ID, VERSION or the key file is refused at every size (R62). -/
theorem hostWrite_readOnly {off : BitVec 8} (size : Nat) (v : Word) (s : State)
    (h : off = 0x00 ∨ off = 0x04 ∨ (0x80 ≤ off.toNat ∧ off.toNat < 0xA8)) :
    hostWrite off size v s = s.flagAccess.respond (.write true) := by
  cases ha : accessAt off size with
  | none => exact hostWrite_refused ha
  | some r =>
    obtain rfl := offset_of_accessAt ha
    rw [hostWrite_mapped ha, writeReg_readOnly v s h]

/-! ### What a write does, register by register -/

theorem hostWrite_ok {r : Reg} {v : Word} {s t : State} (h : writeReg s v r = (t, false)) :
    hostWrite r.offset 4 v s = t.respond (.write false) := by
  rw [hostWrite_offset, h]

theorem hostWrite_congr {r : Reg} {v w : Word} {s : State} (h : writeReg s v r = writeReg s w r) :
    hostWrite r.offset 4 v s = hostWrite r.offset 4 w s := by
  rw [hostWrite_offset, hostWrite_offset, h]

theorem writeReg_ctrl_softReset {v : Word} (s : State) (h : v.getLsbD 1 = true) :
    writeReg s v .ctrl = (s.resetRegs, false) := by
  simp only [writeReg, writeCtrl, h, if_true]

theorem writeReg_ctrl_config {v : Word} (s : State) (h : v.getLsbD 1 = false) :
    writeReg s v .ctrl = ({ s with ctrl := Ctrl.ofWord v }, false) := by
  simp only [writeReg, writeCtrl, h, Bool.false_eq_true, if_false]

theorem writeReg_status (v : Word) (s : State) :
    writeReg s v .status = ({ s with status := s.status.clearW1C v }, false) := rfl

theorem unlessBusy_pending {s : State} (f : State → State) (h : s.pend ≠ none) :
    unlessBusy s f = s.flagBusyWrite := by
  simp [unlessBusy, State.busy, Option.isSome_iff_ne_none.mpr h]

theorem unlessBusy_idle {s : State} (f : State → State) (h : s.pend = none) : unlessBusy s f = f s := by
  simp [unlessBusy, State.busy, h]

theorem writeReg_cmd_pending {s : State} (v : Word) (h : s.pend ≠ none) :
    writeReg s v .cmd = (s.flagBusyWrite, false) := by
  rw [writeReg, unlessBusy_pending _ h]

theorem writeReg_cmd_idle {s : State} (v : Word) (h : s.pend = none) : writeReg s v .cmd = (issue v s, false) := by
  rw [writeReg, unlessBusy_idle _ h]

theorem writeReg_g_pending {s : State} (i : RegIdx) (v : Word) (h : s.pend ≠ none) :
    writeReg s v (.g i) = (s.flagBusyWrite, false) := by
  rw [writeReg, unlessBusy_pending _ h]

theorem writeReg_g_idle {s : State} (i : RegIdx) (v : Word) (h : s.pend = none) :
    writeReg s v (.g i) = (s.setX i v, false) := by
  rw [writeReg, unlessBusy_idle _ h]

end Sys2Proof.Machine
end

section
/-! The host's accesses, settled (20_memory.md R62 to R64). -/

namespace Sys2Proof.Machine

/-- Settles O48: no register stands where an access is refused, the read-only registers refuse a write, and the two
written words count by their masks only. -/
theorem refusedAccesses : Obligations.RefusedAccesses := by
  unfold Obligations.RefusedAccesses
  intro off size v s
  refine ⟨fun h => ?_, fun h => hostWrite_readOnly size v s h, fun hs ha ho => ?_, fun hs ho => ?_,
    (hostWrite_congr (writeReg_ctrl_mask v s)).symm, (hostWrite_congr (writeReg_status_mask v s)).symm⟩
  · have unmapped := (accessAt_eq_none_iff off size).mpr h
    exact ⟨hostRead_refused unmapped, hostWrite_refused unmapped⟩
  · have mapped : accessAt off size ≠ none := by
      rw [Ne, accessAt_eq_none_iff]
      omega
    obtain ⟨r, hr⟩ := Option.ne_none_iff_exists'.mp mapped
    exact ⟨readReg s r, hostRead_mapped hr⟩
  · subst hs
    rcases ho with rfl | rfl
    · exact congrArg (·.env.resp) (hostWrite_offset .ctrl v s)
    · exact congrArg (·.env.resp) (hostWrite_ok (writeReg_status v s))

/-- Settles O49: a read of a register returns `readReg` of it at its offset, and the STATUS and CTRL words hold their
fields. -/
theorem readsReturnRegisters : Obligations.ReadsReturnRegisters := by
  unfold Obligations.ReadsReturnRegisters
  intro s
  exact ⟨fun off n h => hostRead_refused ((accessAt_eq_none_iff off n).mpr h), hostRead_offset .id s,
    hostRead_offset .version s, hostRead_offset .ctrl s, hostRead_offset .status s, hostRead_offset .cmd s,
    fun i => hostRead_offset (.g i) s, hostRead_offset (.key .kp) s, hostRead_offset (.key .kq) s,
    hostRead_offset (.key .ke) s, hostRead_offset (.key .kn) s, hostRead_offset (.key .kphi) s,
    hostRead_offset (.key .kd) s, hostRead_offset (.key .kdp) s, hostRead_offset (.key .kdq) s,
    hostRead_offset (.key .kqinv) s, hostRead_offset (.key .kpinv) s, s.statusWord_busy, s.statusWord_done,
    s.statusWord_keyValid, s.statusWord_crtValid, s.statusWord_wrBusy, s.statusWord_accErr, s.statusWord_reserved_low,
    s.statusWord_err, s.statusWord_errInfo, s.statusWord_lastOpc, s.statusWord_reserved_high, s.ctrl.word_irqEn,
    s.ctrl.word_srst, s.ctrl.word_reserved_low, s.ctrl.word_wcount, s.ctrl.word_reserved_high⟩

/-- Settles O50: a refused write reaches no register or a read-only one, and any other does to its register what
`writeReg` says. -/
theorem writesUpdateRegisters : Obligations.WritesUpdateRegisters := by
  unfold Obligations.WritesUpdateRegisters
  intro v s
  refine ⟨fun off n h => ?_, fun h => hostWrite_ok (writeReg_ctrl_softReset s h),
    fun h => hostWrite_ok (writeReg_ctrl_config s h), ?_, fun h => hostWrite_ok (writeReg_cmd_pending v h),
    fun h => hostWrite_ok (writeReg_cmd_idle v h),
    fun i => ⟨fun h => hostWrite_ok (writeReg_g_pending i v h), fun h => ?_⟩⟩
  · by_cases unmapped : accessAt off n = none
    · exact hostWrite_refused unmapped
    · rw [accessAt_eq_none_iff] at unmapped
      exact hostWrite_readOnly n v s (by tauto)
  · rw [← Status.clearW1C_eq]
    exact hostWrite_ok (writeReg_status v s)
  · exact ⟨_, hostWrite_ok (writeReg_g_idle i v h), s.x_setX_same i v, fun j hj => s.x_setX_other v hj, rfl⟩

end Sys2Proof.Machine
end

section
/-! Issue of a command word, settled (30_encoding.md R103). -/

namespace Sys2Proof.Machine

/-- Settles O6: on an idle engine the write to CMD is `issue` of the word, and what `issue` does depends on whether the
word decodes; the latch of a legal one is spelled out field by field. -/
theorem issueLatchesOrRefuses : Obligations.IssueLatchesOrRefuses := by
  unfold Obligations.IssueLatchesOrRefuses
  intro w s idle
  refine ⟨fun illegal => ?_, fun i legal => ?_⟩
  · rw [writeReg_cmd_idle w idle, issue_illegal illegal]
  · rw [writeReg_cmd_idle w idle, issue_legal legal, State.latch]

end Sys2Proof.Machine
end

section
/-! The pure functions of the integer core in closed form (40_integer_core.md R120 to R122): `gcd_fn` is `Nat.gcd`, and
the exponentiation loop multiplies its accumulator by a power. -/

namespace Sys2Proof.Machine

@[simp] theorem gcdFn_eq_gcd (a b : Nat) : gcdFn a b = Nat.gcd a b := by
  induction b using Nat.strongRecOn generalizing a with
  | ind b ih =>
    rw [gcdFn_step]
    split
    · next hb => rw [hb, Nat.gcd_zero_right]
    · next hb =>
      have falls : a % b < b := Nat.mod_lt a (Nat.pos_of_ne_zero hb)
      rw [ih (a % b) falls, Nat.gcd_comm b, ← Nat.gcd_rec, Nat.gcd_comm]

/-- The exact product of R121 does not see whether its left factor is already reduced. -/
theorem mulmodFn_mod_left (a b m : Nat) : mulmodFn (a % m) b m = a * b % m :=
  Nat.mod_mul_mod a b m

/-- The invariant of the loop of R122: its result is the accumulator times `b ^ e`, reduced. A round replaces
`(r, b, e)` by `(r * b ^ (e % 2), b * b, e / 2)`, which leaves that number as it is. -/
theorem modpowLoop_eq (m r b e : Nat) : modpowLoop m e (r % m) b e = r * b ^ e % m := by
  induction e using Nat.strongRecOn generalizing r b with
  | ind e ih =>
    rcases Nat.eq_zero_or_pos e with rfl | hpos
    · rw [pow_zero, mul_one, modpowLoop]
    · have half : e / 2 < e := Nat.div_lt_self hpos Nat.one_lt_two
      have round (c : Nat) : modpowLoop m (e / 2) (c % m) (mulmodFn b b m) (e / 2) = c * b ^ (2 * (e / 2)) % m := by
        rw [ih _ half, mulmodFn, pow_mul, sq, Nat.mul_mod, ← Nat.pow_mod, ← Nat.mul_mod]
      rw [modpowLoop_round m _ b hpos]
      split
      · next odd =>
        rw [mulmodFn_mod_left, round, mul_assoc, ← pow_succ', show 2 * (e / 2) + 1 = e by omega]
      · next even => rw [round, show 2 * (e / 2) = e by omega]

/-- R122 as a power; at modulus 0, where the rule says nothing, the equation holds too (`n % 0 = n`). -/
@[simp] theorem modpowFn_eq_pow_mod (b e m : Nat) : modpowFn b e m = b ^ e % m := by
  rw [modpowFn, modpowLoop_eq, one_mul, ← Nat.pow_mod]

end Sys2Proof.Machine
end

section
/-! The commands GCD, MULMOD and MODPOW, settled (40_integer_core.md R120, R125 to R127). -/

namespace Sys2Proof.Machine

/-! ### Completion of each command -/

theorem exec_gcd {s : State} {p : Pending} (rd rs1 rs2 : RegIdx) (pending : s.pend = some p) :
    exec (.gcd rd rs1 rs2) s = .next (s.endedWith rd (Nat.gcd p.v1.toNat p.v2.toNat)) := by
  rw [exec, execGcd, completing_some pending, State.completeWrite_u32, gcdFn_eq_gcd]

theorem exec_mulmod {s : State} {p : Pending} (rd rs1 rs2 rs3 : RegIdx) (pending : s.pend = some p) :
    exec (.mulmod rd rs1 rs2 rs3) s =
      .next (if p.v3 = 0 then s.ended .zeroModulus 0
        else s.endedWith rd (p.v1.toNat * p.v2.toNat % p.v3.toNat)) := by
  rw [exec, execMulmod, completing_some pending, State.raise_eq, State.completeWrite_u32, mulmodFn]

theorem exec_modpow {s : State} {p : Pending} (rd rs1 rs2 rs3 : RegIdx) (pending : s.pend = some p) :
    exec (.modpow rd rs1 rs2 rs3) s =
      .next (if p.v3 = 0 then s.ended .zeroModulus 0
        else s.endedWith rd (p.v1.toNat ^ p.v2.toNat % p.v3.toNat)) := by
  rw [exec, execModpow, completing_some pending, State.raise_eq, State.completeWrite_u32, modpowFn_eq_pow_mod]

/-- A command that completes in one of two ways, read as one clause each. -/
theorem next_ite_clauses {c : Prop} [Decidable c] {r : Result} {t u : State} (h : r = .next (if c then t else u)) :
    (c → r = .next t) ∧ (¬ c → r = .next u) :=
  ⟨fun hc => by rw [h, if_pos hc], fun hc => by rw [h, if_neg hc]⟩

/-! ### The statements -/

/-- Settles O12: the loop's equation is `gcdFn_step`, and the rest is what `Nat.gcd` is known for; the bound is the
operand it divides, or 0 when both are. -/
theorem gcdFnIsGcd : Obligations.GcdFnIsGcd := by
  unfold Obligations.GcdFnIsGcd
  intro a b
  refine ⟨gcdFn_step a b, ?_⟩
  simp only [gcdFn_eq_gcd]
  have bound : Nat.gcd a b ≤ max a b := by
    rcases Nat.eq_zero_or_pos a with rfl | ha
    · simp
    · exact (Nat.gcd_le_left b ha).trans (le_max_left a b)
  exact ⟨Nat.gcd_zero_right a, Nat.gcd_zero_right 0, Nat.gcd_dvd_left a b, Nat.gcd_dvd_right a b,
    fun _ => Nat.dvd_gcd, Nat.gcd_comm a b, bound⟩

/-- Settles O13: the fields and the latched operands are by definition, the completion is `exec_gcd`. -/
theorem gcdWritesGcd : Obligations.GcdWritesGcd := by
  unfold Obligations.GcdWritesGcd
  exact fun rd rs1 rs2 => ⟨rfl, fun _ => ⟨rfl, rfl⟩, fun _ _ => exec_gcd rd rs1 rs2⟩

/-- Settles O14: the two ends of `exec_mulmod`. -/
theorem mulmodWritesProduct : Obligations.MulmodWritesProduct := by
  unfold Obligations.MulmodWritesProduct
  exact fun rd rs1 rs2 rs3 => ⟨rfl, fun _ => ⟨rfl, rfl, rfl⟩, fun _ _ pending =>
    next_ite_clauses (exec_mulmod rd rs1 rs2 rs3 pending)⟩

/-- Settles O16: the two ends of `exec_modpow`. -/
theorem modpowWritesPower : Obligations.ModpowWritesPower := by
  unfold Obligations.ModpowWritesPower
  exact fun rd rs1 rs2 rs3 => ⟨rfl, fun _ => ⟨rfl, rfl, rfl⟩, fun _ _ pending =>
    next_ite_clauses (exec_modpow rd rs1 rs2 rs3 pending)⟩

end Sys2Proof.Machine
end

section
/-! The inversion of the decoder: a decoded command comes from a row of the table of R95 that the word hits. -/

namespace Sys2Proof

theorem row_of_decode {w : Word} {i : Instr} (h : decode w = some i) :
    ∃ r ∈ rows, w &&& r.mask = r.pattern ∧ r.build (Cmd32.ofWord w) = i := by
  obtain ⟨r, found, built⟩ := Option.map_eq_some_iff.mp h
  have hit : r.hit w = true := by simpa using List.find?_some found
  exact ⟨r, List.mem_of_find?_eq_some found, eq_of_beq hit, built⟩

/-- Only the last row builds CLRKEY, and it has no field: its mask is the whole word. -/
theorem row_of_build_clrkey (f : Cmd32) :
    ∀ r ∈ rows, r.build f = .clrkey → r.mask = BitVec.allOnes 32 ∧ r.pattern = 0x0000000B := by
  -- every row but the last builds another command
  simp only [rows, List.forall_mem_cons, reduceCtorEq, false_implies, true_and]
  exact ⟨fun _ => by decide, List.forall_mem_nil _⟩

theorem decode_eq_clrkey_iff (w : Word) : decode w = some .clrkey ↔ w = 0x0000000B := by
  constructor
  · intro h
    obtain ⟨r, mem, hit, built⟩ := row_of_decode h
    obtain ⟨mask, pattern⟩ := row_of_build_clrkey _ r mem built
    rwa [mask, pattern, BitVec.and_allOnes] at hit
  · rintro rfl
    decide

end Sys2Proof
end

section
/-! The completion of KEYGEN, KEYGENA and CLRKEY, settled (43_key_derivation.md R196 to R198). -/

namespace Sys2Proof.Machine

/-! ### Completion of each command -/

theorem exec_keygen {s : State} {p : Pending} {val crt : Bool} {outcome : Except Raised KeyFile} {used : Nat}
    (rs1 rs2 rs3 : RegIdx) (pending : s.pend = some p)
    (derived : keyDeriveFn p.v1.toNat p.v2.toNat p.v3.toNat false val crt p.wc.toNat s.raw = (outcome, used)) :
    exec (.keygen rs1 rs2 rs3 val crt) s = .next ((s.drew used).completeKey crt outcome) := by
  simp only [exec, execKeygen, completing_some pending, derived, State.consume_eq_drew]

theorem exec_keygena {s : State} {p : Pending} {val crt : Bool} {outcome : Except Raised KeyFile} {used : Nat}
    (rs1 rs2 : RegIdx) (pending : s.pend = some p)
    (derived : keyDeriveFn p.v1.toNat p.v2.toNat 0 true val crt p.wc.toNat s.raw = (outcome, used)) :
    exec (.keygena rs1 rs2 val crt) s = .next ((s.drew used).completeKey crt outcome) := by
  simp only [exec, execKeygena, completing_some pending, derived, State.consume_eq_drew]

@[simp] theorem State.clearKey_ended (s : State) (c : ErrCode) (n : BitVec 4) :
    s.clearKey.ended c n = s.endedCleared c n := rfl

theorem exec_clrkey {s : State} {p : Pending} (pending : s.pend = some p) :
    exec .clrkey s = .next (s.endedCleared .ok 0) := by
  rw [exec, execClrkey, completing_some pending, State.completeOk_eq, State.clearKey_ended]

/-! ### The statements -/

/-- Settles O25: both commands complete as `completeKey` of the derivation's outcome, which is the whole key when it
returned one and the cleared key file with the error when it raised. -/
theorem derivationWritesOrClears : Obligations.DerivationWritesOrClears := by
  unfold Obligations.DerivationWritesOrClears
  intro rs1 rs2 rs3 val crt s p pending
  refine ⟨fun k used derived => ?_, fun r used derived => ?_, fun k used derived => ?_, fun r used derived => ?_⟩
  · rw [exec_keygen rs1 rs2 rs3 pending derived, State.completeKey_ok]
  · rw [exec_keygen rs1 rs2 rs3 pending derived, State.completeKey_error]
  · rw [exec_keygena rs1 rs2 pending derived, State.completeKey_ok]
  · rw [exec_keygena rs1 rs2 pending derived, State.completeKey_error]

/-- Settles O31: the word by the decoder's table, the completion by `exec_clrkey`. -/
theorem clrkeyClears : Obligations.ClrkeyClears := by
  unfold Obligations.ClrkeyClears
  exact ⟨decode_eq_clrkey_iff, fun _ _ => exec_clrkey⟩

end Sys2Proof.Machine
end

section
/-! The command DECRYPT, settled (44_cipher.md R231). -/

namespace Sys2Proof.Machine

theorem exec_decrypt_noKey {s : State} {p : Pending} (rd rs1 : RegIdx) (pending : s.pend = some p)
    (noKey : s.status.keyValid = false) : exec (.decrypt rd rs1) s = .next (s.ended .noKey 0) := by
  simp only [exec, execDecrypt, completing_some pending, noKey, Bool.false_eq_true, if_false, State.raise_eq]

/-- The modulus is in the domain of R122, so the written value is the rule's result and not the free one (log 14). -/
theorem exec_decrypt_keyed {s : State} {p : Pending} (rd rs1 : RegIdx) (pending : s.pend = some p)
    (held : s.status.keyValid = true) (modulus : s.key.n ≠ 0) :
    exec (.decrypt rd rs1) s =
      .next (s.endedWith rd (p.v1.toNat ^ s.key.d.toNat % s.key.n.toNat)) := by
  have inDomain : (s.key.n == 0) = false := beq_eq_false_iff_ne.mpr modulus
  simp only [exec, execDecrypt, completing_some pending, held, if_true, cipherValue_u32 inDomain,
    State.completeWrite_u32, modpowFn_eq_pow_mod]

/-- Settles O34: without a key the completion is the report alone, and under a held key the square-and-multiply loop
gives the power with the private exponent. -/
theorem decryptWritesPower : Obligations.DecryptWritesPower := by
  unfold Obligations.DecryptWritesPower
  exact fun rd rs1 => ⟨rfl, fun _ => rfl, fun _ _ pending =>
    ⟨exec_decrypt_noKey rd rs1 pending, exec_decrypt_keyed rd rs1 pending⟩⟩

end Sys2Proof.Machine
end

section
/-! The opcode of a decoded word: every row of the table of R95 fixes all six bits of OPC, and OPC 0 belongs to the
row of NOP alone. -/

namespace Sys2Proof

theorem rows_mask_opc : ∀ r ∈ rows, r.mask.extractLsb' 0 6 = BitVec.allOnes 6 := by decide

theorem rows_build_opc (f : Cmd32) : ∀ r ∈ rows, (r.build f).fields.opc = r.pattern.extractLsb' 0 6 := by
  simp only [rows, List.forall_mem_cons]
  exact ⟨rfl, rfl, rfl, rfl, rfl, rfl, rfl, rfl, rfl, rfl, rfl, rfl, List.forall_mem_nil _⟩

theorem rows_of_opc_zero :
    ∀ r ∈ rows, r.pattern.extractLsb' 0 6 = 0 → r.mask = BitVec.allOnes 32 ∧ r.pattern = 0x00000000 := by decide

/-- A word that hits a row has the row's opcode. -/
theorem opc_of_hit {r : Row} {w : Word} (mem : r ∈ rows) (hit : w &&& r.mask = r.pattern) :
    w.extractLsb' 0 6 = r.pattern.extractLsb' 0 6 := by
  rw [← hit, BitVec.extractLsb'_and, rows_mask_opc r mem, BitVec.and_allOnes]

theorem opc_of_decode {w : Word} {i : Instr} (h : decode w = some i) : i.fields.opc = w.extractLsb' 0 6 := by
  obtain ⟨r, mem, hit, rfl⟩ := row_of_decode h
  rw [rows_build_opc _ r mem, opc_of_hit mem hit]

theorem eq_zero_of_decode_opc_zero {w : Word} {i : Instr} (h : decode w = some i) (opc : w.extractLsb' 0 6 = 0) :
    w = 0x00000000 := by
  obtain ⟨r, mem, hit, -⟩ := row_of_decode h
  obtain ⟨mask, pattern⟩ := rows_of_opc_zero r mem ((opc_of_hit mem hit).symm.trans opc)
  rwa [mask, pattern, BitVec.and_allOnes] at hit

theorem decode_zero : decode 0x00000000 = some .nop := by decide

theorem decode_eq_nop_iff (w : Word) : decode w = some .nop ↔ w = 0x00000000 := by
  constructor
  · intro h
    exact eq_zero_of_decode_opc_zero h (opc_of_decode h).symm
  · rintro rfl
    exact decode_zero

theorem decode_opc_zero_illegal {w : Word} (opc : w.extractLsb' 0 6 = 0) (nonzero : w ≠ 0x00000000) :
    decode w = none := by
  cases h : decode w with
  | none => rfl
  | some i => exact absurd (eq_zero_of_decode_opc_zero h opc) nonzero

end Sys2Proof
end

section
/-! The command NOP, settled (45_system.md R260). -/

namespace Sys2Proof.Machine

theorem exec_nop {s : State} {p : Pending} (pending : s.pend = some p) : exec .nop s = .next (s.ended .ok 0) := by
  rw [exec, execNop, completing_some pending, State.completeOk_eq]

theorem writeReg_cmd_nop {s : State} (idle : s.pend = none) :
    (writeReg s 0x00000000 .cmd).1.busy = true ∧ (writeReg s 0x00000000 .cmd).1.status.lastOpc = 0 := by
  rw [writeReg_cmd_idle _ idle, issue_legal decode_zero]
  exact ⟨rfl, rfl⟩

/-- Settles O11: the word by the opcode its row fixes, the issue as that of any legal word, and a completion that is
the report alone. -/
theorem nopCompletes : Obligations.NopCompletes := by
  unfold Obligations.NopCompletes
  exact ⟨decode_eq_nop_iff, fun _ => decode_opc_zero_illegal, fun _ => writeReg_cmd_nop, fun _ _ => exec_nop⟩

end Sys2Proof.Machine
end

section
/-! Completions with an error, settled (60_exceptions.md R301). -/

namespace Sys2Proof.Machine

/-- Of the opcodes with which `EndsIn` clears the key file, only CLRKEY's derives no key. -/
theorem eq_clrkey_of_opc {i : Instr} (opc : i.fields.opc = 6 ∨ i.fields.opc = 7 ∨ i.fields.opc = 11)
    (derives : i.derivesKey = false) : i = .clrkey := by
  cases i with
  | clrkey => rfl
  | keygen | keygena => cases derives
  | _ => simp [Instr.fields, Cmd32.plain] at opc

/-- A key derivation completes by `completeKey`, whichever of the two it is. -/
theorem exec_of_derivesKey {i : Instr} {s : State} {p : Pending} (pending : s.pend = some p)
    (derives : i.derivesKey = true) :
    ∃ used crt outcome, exec i s = .next ((s.drew used).completeKey crt outcome) := by
  cases i with
  | keygen rs1 rs2 rs3 val crt => exact ⟨_, _, _, exec_keygen rs1 rs2 rs3 pending rfl⟩
  | keygena rs1 rs2 val crt => exact ⟨_, _, _, exec_keygena rs1 rs2 pending rfl⟩
  | _ => cases derives

theorem exec_failed_of_derivesKey {i : Instr} {s t : State} (answered : exec i s = .next t)
    (failed : t.status.err ≠ .ok) (derives : i.derivesKey = true) :
    ∃ k, t = (s.drew k).endedCleared t.status.err t.status.errInfo := by
  obtain ⟨⟨p, pending⟩, -⟩ := exec_next answered
  obtain ⟨used, crt, outcome, completed⟩ := exec_of_derivesKey pending derives
  obtain rfl := Host.Outcome.next.inj (completed.symm.trans answered)
  cases outcome with
  | ok k => exact absurd rfl failed
  | error r => exact ⟨used, rfl⟩

/-- Of the ends of a completion only the report and the cleared key can carry an error, and CLRKEY, whose end the
latter would be, answers OK. -/
theorem exec_failed_of_not_derivesKey {i : Instr} {s t : State} (answered : exec i s = .next t)
    (failed : t.status.err ≠ .ok) (derives : i.derivesKey = false) :
    t = s.ended t.status.err t.status.errInfo := by
  obtain ⟨⟨p, pending⟩, ends⟩ := exec_next answered
  cases ends with
  | report c n => rfl
  | result k v => exact absurd rfl failed
  | key k f c => exact absurd rfl failed
  | cleared k c n opc =>
    obtain rfl := eq_clrkey_of_opc opc derives
    have same := Host.Outcome.next.inj ((exec_clrkey pending).symm.trans answered)
    exact absurd (congrArg (·.status.err) same).symm failed

/-- Settles O40: the whole state after an error is one of two, and in both the general registers are the old ones. -/
theorem errorsWriteNoRegister : Obligations.ErrorsWriteNoRegister := by
  unfold Obligations.ErrorsWriteNoRegister
  intro i s t answered failed
  cases derives : i.derivesKey with
  | false =>
    have whole := exec_failed_of_not_derivesKey answered failed derives
    exact ⟨by rw [whole, State.ended_g], fun _ => whole, nofun⟩
  | true =>
    obtain ⟨k, whole⟩ := exec_failed_of_derivesKey answered failed derives
    exact ⟨by rw [whole, State.endedCleared_g, State.drew_g], nofun, fun _ => ⟨k, whole⟩⟩

end Sys2Proof.Machine
end

section
/-! Command words and their fields (30_encoding.md R90, R95, R96, R99): the fields make the word and the word gives the
fields back, so that the mask rows of the table become conditions on fields. -/

namespace Sys2Proof

/-! ### A field put above what a word holds already -/

/-- A field ORed in above the bits of `w` is added to it. -/
theorem toNat_or_fieldAt {n pos : Nat} {w : Word} (v : BitVec n) (below : w.toNat < 2 ^ pos) (fits : pos + n ≤ 32) :
    (w ||| fieldAt pos v).toNat = w.toNat + v.toNat * 2 ^ pos ∧ (w ||| fieldAt pos v).toNat < 2 ^ (pos + n) := by
  have top : v.toNat * 2 ^ pos + 2 ^ pos ≤ 2 ^ (pos + n) := by
    rw [← Nat.succ_mul, pow_add, mul_comm (2 ^ pos)]
    exact Nat.mul_le_mul_right _ v.isLt
  have word : 2 ^ (pos + n) ≤ 2 ^ 32 := Nat.pow_le_pow_right Nat.two_pos fits
  have small : 2 ^ n ≤ 2 ^ 32 := Nat.pow_le_pow_right Nat.two_pos (by omega)
  have field : (fieldAt pos v).toNat = v.toNat <<< pos := by
    have hv := v.isLt
    have hpos := Nat.two_pow_pos pos
    rw [fieldAt, BitVec.toNat_shiftLeft, BitVec.toNat_setWidth, Nat.mod_eq_of_lt (a := v.toNat) (by omega),
      Nat.mod_eq_of_lt]
    rw [Nat.shiftLeft_eq]
    omega
  have sum : (w ||| fieldAt pos v).toNat = w.toNat + v.toNat * 2 ^ pos := by
    rw [BitVec.toNat_or, field, Nat.or_comm, ← Nat.shiftLeft_add_eq_or_of_lt below, Nat.shiftLeft_eq, Nat.add_comm]
  exact ⟨sum, by omega⟩

/-- The word of R99 as a number, reserved fields included. -/
theorem Cmd32.toNat_toWord (f : Cmd32) :
    f.toWord.toNat =
      f.opc.toNat + f.res1.toNat * 2 ^ 6 + f.rd.toNat * 2 ^ 8 + f.rs1.toNat * 2 ^ 12 + f.rs2.toNat * 2 ^ 16 +
        f.rs3.toNat * 2 ^ 20 + f.val.toNat * 2 ^ 24 + f.crt.toNat * 2 ^ 25 + f.res2.toNat * 2 ^ 26 := by
  have opc : fieldAt 0 f.opc = 0 ||| fieldAt 0 f.opc := (BitVec.zero_or).symm
  obtain ⟨e0, b0⟩ := toNat_or_fieldAt (w := 0) (pos := 0) f.opc (by decide) (by decide)
  obtain ⟨e1, b1⟩ := toNat_or_fieldAt f.res1 b0 (by decide)
  obtain ⟨e2, b2⟩ := toNat_or_fieldAt f.rd b1 (by decide)
  obtain ⟨e3, b3⟩ := toNat_or_fieldAt f.rs1 b2 (by decide)
  obtain ⟨e4, b4⟩ := toNat_or_fieldAt f.rs2 b3 (by decide)
  obtain ⟨e5, b5⟩ := toNat_or_fieldAt f.rs3 b4 (by decide)
  obtain ⟨e6, b6⟩ := toNat_or_fieldAt (BitVec.ofBool f.val) b5 (by decide)
  obtain ⟨e7, b7⟩ := toNat_or_fieldAt (BitVec.ofBool f.crt) b6 (by decide)
  obtain ⟨e8, -⟩ := toNat_or_fieldAt f.res2 b7 (by decide)
  rw [Cmd32.toWord, opc]
  simp only [bitAt]
  rw [e8, e7, e6, e5, e4, e3, e2, e1, e0]
  simp

/-! ### The fields of a word and the word of fields -/

@[simp] theorem Cmd32.toWord_ofWord (w : Word) : (Cmd32.ofWord w).toWord = w := by
  have bit (k : Nat) : (w.getLsbD k).toNat = w.toNat / 2 ^ k % 2 := by
    rw [BitVec.getLsbD, Nat.toNat_testBit]
  have hw := w.isLt
  refine BitVec.eq_of_toNat_eq ?_
  rw [Cmd32.toNat_toWord]
  simp only [Cmd32.ofWord, BitVec.extractLsb'_toNat, Nat.shiftRight_eq_div_pow, bit]
  omega

@[simp] theorem Cmd32.ofWord_toWord (f : Cmd32) : Cmd32.ofWord f.toWord = f := by
  simp [Cmd32.ofWord, Cmd32.toWord, BitVec.extractLsb'_or, extractLsb'_fieldAt_same, extractLsb'_fieldAt_apart,
    extractLsb'_bitAt_apart]

theorem ofWord_encode (i : Instr) : Cmd32.ofWord (encode i) = i.fields := Cmd32.ofWord_toWord _

/-- Masking, field by field. -/
def Cmd32.mask (f m : Cmd32) : Cmd32 :=
  { opc := f.opc &&& m.opc, res1 := f.res1 &&& m.res1, rd := f.rd &&& m.rd, rs1 := f.rs1 &&& m.rs1,
    rs2 := f.rs2 &&& m.rs2, rs3 := f.rs3 &&& m.rs3, val := f.val && m.val, crt := f.crt && m.crt,
    res2 := f.res2 &&& m.res2 }

theorem Cmd32.ofWord_and (w m : Word) : Cmd32.ofWord (w &&& m) = (Cmd32.ofWord w).mask (Cmd32.ofWord m) := by
  simp [Cmd32.ofWord, Cmd32.mask, BitVec.extractLsb'_and]

theorem Cmd32.ofWord_injective : Function.Injective Cmd32.ofWord :=
  Function.LeftInverse.injective Cmd32.toWord_ofWord

/-! ### The rows of the table, read on fields -/

/-- A row's mask keeps exactly the fields its command fixes, so a match means that the command built has the given
fields. -/
theorem rows_match_iff (f : Cmd32) : ∀ r ∈ rows,
    (f.mask (Cmd32.ofWord r.mask) = Cmd32.ofWord r.pattern ↔ f = (r.build f).fields) := by
  obtain ⟨opc, res1, rd, rs1, rs2, rs3, val, crt, res2⟩ := f
  have ones2 (v : BitVec 2) : v &&& 3#2 = v := BitVec.and_allOnes
  have ones4 (v : BitVec 4) : v &&& 15#4 = v := BitVec.and_allOnes
  have ones6 (v : BitVec 6) : v &&& 63#6 = v := BitVec.and_allOnes
  simp only [rows, List.forall_mem_cons]
  simp [Cmd32.ofWord, Cmd32.mask, Instr.fields, Cmd32.plain, Cmd32.keyed, ones2, ones4, ones6]

/-- A word hits a row exactly when it is the word of the command the row builds from it. -/
theorem hit_iff_encode {r : Row} (mem : r ∈ rows) (w : Word) :
    w &&& r.mask = r.pattern ↔ encode (r.build (Cmd32.ofWord w)) = w := by
  rw [← Cmd32.ofWord_injective.eq_iff, Cmd32.ofWord_and, rows_match_iff _ r mem, eq_comm, ← ofWord_encode,
    Cmd32.ofWord_injective.eq_iff]

/-- Every command is built by a row from its own fields. -/
theorem exists_row (i : Instr) : ∃ r ∈ rows, r.build i.fields = i := by
  have row (k : Nat) (hk : k < rows.length) : rows[k] ∈ rows := List.getElem_mem hk
  cases i with
  | nop => exact ⟨_, row 0 (by decide), rfl⟩
  | gcd => exact ⟨_, row 1 (by decide), rfl⟩
  | mulmod => exact ⟨_, row 2 (by decide), rfl⟩
  | modpow => exact ⟨_, row 3 (by decide), rfl⟩
  | modinv => exact ⟨_, row 4 (by decide), rfl⟩
  | prime => exact ⟨_, row 5 (by decide), rfl⟩
  | keygen => exact ⟨_, row 6 (by decide), rfl⟩
  | keygena => exact ⟨_, row 7 (by decide), rfl⟩
  | encrypt => exact ⟨_, row 8 (by decide), rfl⟩
  | decrypt => exact ⟨_, row 9 (by decide), rfl⟩
  | deccrt => exact ⟨_, row 10 (by decide), rfl⟩
  | clrkey => exact ⟨_, row 11 (by decide), rfl⟩

end Sys2Proof
end

section
/-! The decoder and the encoder, settled (30_encoding.md R96, R99). -/

namespace Sys2Proof

/-- No two rows have one opcode. -/
theorem rows_opc_injective {r r' : Row} (mem : r ∈ rows) (mem' : r' ∈ rows)
    (same : r.pattern.extractLsb' 0 6 = r'.pattern.extractLsb' 0 6) : r = r' := by
  have nodup : (rows.map fun r => r.pattern.extractLsb' 0 6).Nodup := by decide
  exact List.inj_on_of_nodup_map nodup mem mem' same

/-- The decoder's answer does not depend on the order of the rows: no word hits two. -/
theorem decode_of_row {r : Row} {w : Word} (mem : r ∈ rows) (hit : w &&& r.mask = r.pattern) :
    decode w = some (r.build (Cmd32.ofWord w)) := by
  cases found : rows.find? fun r => r.hit w with
  | none => exact absurd (beq_iff_eq.mpr hit) (List.find?_eq_none.mp found r mem)
  | some r' =>
    have mem' := List.mem_of_find?_eq_some found
    have hit' : w &&& r'.mask = r'.pattern := by simpa [Row.hit] using List.find?_some found
    obtain rfl := rows_opc_injective mem mem' ((opc_of_hit mem hit).symm.trans (opc_of_hit mem' hit'))
    rw [decode, found, Option.map_some]

theorem decode_encode (i : Instr) : decode (encode i) = some i := by
  obtain ⟨r, mem, built⟩ := exists_row i
  have hit : encode i &&& r.mask = r.pattern := by
    rw [hit_iff_encode mem, ofWord_encode, built]
  rw [decode_of_row mem hit, ofWord_encode, built]

theorem encode_of_decode {w : Word} {i : Instr} (h : decode w = some i) : encode i = w := by
  obtain ⟨r, mem, hit, rfl⟩ := row_of_decode h
  exact (hit_iff_encode mem w).mp hit

/-! ### Legal fields -/

theorem wellFormed_fields (i : Instr) : i.fields.wellFormed = true := by
  cases i with
  | nop => exact Laws.FieldsFit.nop
  | clrkey => exact Laws.FieldsFit.clrkey
  | _ => rfl

theorem exists_row_of_opc :
    ∀ opc : BitVec 6, opc.toNat ≤ 0x0B → ∃ r ∈ rows, opc = r.pattern.extractLsb' 0 6 := by
  decide

/-- Legal fields with a row's opcode are those of the command the row builds: what it drops is 0. -/
theorem rows_build_legal (f : Cmd32) : ∀ r ∈ rows,
    f.opc = r.pattern.extractLsb' 0 6 → f.wellFormed = true → f = (r.build f).fields := by
  obtain ⟨opc, res1, rd, rs1, rs2, rs3, val, crt, res2⟩ := f
  simp only [rows, List.forall_mem_cons]
  simp +contextual [Cmd32.wellFormed, Cmd32.opcAssigned, Cmd32.reservedZero, Cmd32.unusedZero, Cmd32.usesRd,
    Cmd32.usesRs1, Cmd32.usesRs2, Cmd32.usesRs3, Cmd32.usesFlags, Instr.fields, Cmd32.plain, Cmd32.keyed]

/-- Fields that pass every check of R96 are those of a command. -/
theorem exists_instr_of_wellFormed {f : Cmd32} (legal : f.wellFormed = true) : ∃ i : Instr, i.fields = f := by
  have assigned : f.opc.toNat ≤ 0x0B := by
    simp only [Cmd32.wellFormed, Cmd32.opcAssigned, Bool.and_eq_true, decide_eq_true_eq] at legal
    exact legal.1.1
  obtain ⟨r, mem, opc⟩ := exists_row_of_opc f.opc assigned
  exact ⟨_, (rows_build_legal f r mem opc legal).symm⟩

/-- Settles O1: the row that builds a command from its fields is hit by its word, and no word hits two rows. -/
theorem decodeOfEncode : Obligations.DecodeOfEncode := by
  unfold Obligations.DecodeOfEncode
  exact decode_encode

/-- Settles O2: a word hits a row only as the word of the command the row builds. -/
theorem encodeOfDecode : Obligations.EncodeOfDecode := by
  unfold Obligations.EncodeOfDecode
  exact fun _ _ => encode_of_decode

/-- Settles O3: a legal word's fields are its command's, which pass the checks, and fields that pass them are some
command's, whose word is legal. -/
theorem legalWordsByFields : Obligations.LegalWordsByFields := by
  unfold Obligations.LegalWordsByFields
  intro w
  rw [Bool.eq_iff_iff, Option.isSome_iff_exists]
  constructor
  · rintro ⟨i, decoded⟩
    rw [← encode_of_decode decoded, ofWord_encode]
    exact wellFormed_fields i
  · intro legal
    obtain ⟨i, fields⟩ := exists_instr_of_wellFormed legal
    refine ⟨i, ?_⟩
    rw [← decode_encode i, encode, fields, Cmd32.toWord_ofWord]

theorem fields_reserved (i : Instr) : i.fields.res1 = 0 ∧ i.fields.res2 = 0 := by
  cases i <;> exact ⟨rfl, rfl⟩

/-- Settles O4: the fields are disjoint, so the word is their sum, and the reserved ones are 0. -/
theorem encodingFormula : Obligations.EncodingFormula := by
  unfold Obligations.EncodingFormula
  intro i
  obtain ⟨res1, res2⟩ := fields_reserved i
  simp [encode, Cmd32.toNat_toWord, res1, res2]

/-- Settles O5 by evaluation of the decoder. -/
theorem specWordsDecode : Obligations.SpecWordsDecode := by
  unfold Obligations.SpecWordsDecode
  decide

end Sys2Proof
end

section
/-! How many rounds the exponentiation loop needs (40_integer_core.md R122 to R124). -/

namespace Sys2Proof.Machine

/-- After `k` rounds the loop of R122 has used the lowest `k` bits of the exponent. -/
theorem modpowLoop_rounds (m r b e k : Nat) : modpowLoop m k (r % m) b e = r * b ^ (e % 2 ^ k) % m := by
  induction k generalizing r b e with
  | zero => simp [modpowLoop, Nat.mod_one]
  | succ k ih =>
    have bits : e % 2 ^ (k + 1) = e % 2 + 2 * (e / 2 % 2 ^ k) := by rw [pow_succ', Nat.mod_mul]
    have round (c : Nat) :
        modpowLoop m k (c % m) (mulmodFn b b m) (e / 2) = c * b ^ (2 * (e / 2 % 2 ^ k)) % m := by
      rw [ih, mulmodFn, pow_mul, sq, Nat.mul_mod, ← Nat.pow_mod, ← Nat.mul_mod]
    rw [modpowLoop, bits]
    split
    · next he => simp [he]
    · split
      · next odd => rw [mulmodFn_mod_left, round, mul_assoc, ← pow_succ', odd, Nat.add_comm 1]
      · next even => rw [round, show e % 2 = 0 by omega, Nat.zero_add]

/-- As many rounds as the exponent has bits are as good as more. -/
theorem modpowLoop_of_lt_two_pow {e k : Nat} (m r b : Nat) (h : e < 2 ^ k) :
    modpowLoop m k r b e = modpowLoop m e r b e := by
  induction k generalizing r b e with
  | zero => rw [show e = 0 by simpa using h]
  | succ k ih =>
    rcases Nat.eq_zero_or_pos e with rfl | hpos
    · rfl
    · rw [modpowLoop, if_neg hpos.ne', ih _ _ (by omega), ← modpowLoop_round m r b hpos]

/-- With fewer rounds than bits the power of 2 comes out smaller than it is. -/
theorem modpowLoop_lt_of_two_pow_le {e k : Nat} (h : 2 ^ k ≤ e) :
    modpowLoop (2 ^ e + 1) k 1 2 e < modpowLoop (2 ^ e + 1) e 1 2 e := by
  have large : 1 < 2 ^ e + 1 := by have := Nat.two_pow_pos e; omega
  have partly := modpowLoop_rounds (2 ^ e + 1) 1 2 e k
  have wholly := modpowLoop_eq (2 ^ e + 1) 1 2 e
  have falls : e % 2 ^ k < e := (Nat.mod_lt e (Nat.two_pow_pos k)).trans_le h
  have smaller : 2 ^ (e % 2 ^ k) < 2 ^ e := Nat.pow_lt_pow_right Nat.one_lt_two falls
  rw [Nat.mod_eq_of_lt large, one_mul, Nat.mod_eq_of_lt (by omega)] at partly wholly
  rwa [partly, wholly]

/-- Settles O15: every law is one of powers, read through the closed form of the loop. -/
theorem modpowFnIsPower : Obligations.ModpowFnIsPower := by
  unfold Obligations.ModpowFnIsPower
  intro b e m _
  simp only [modpowFn_eq_pow_mod]
  exact ⟨trivial, by rw [pow_zero], Nat.mod_one _, by rw [pow_one], (Nat.pow_mod b e m).symm,
    fun he => by rw [zero_pow he.ne', Nat.zero_mod]⟩

/-- Settles O17: enough rounds by `modpowLoop_of_lt_two_pow`; too few are told apart by the power of 2. -/
theorem modpowRoundsAreBits : Obligations.ModpowRoundsAreBits := by
  unfold Obligations.ModpowRoundsAreBits
  intro e
  have size_log (pos : 0 < e) : Nat.size e = Nat.log2 e + 1 :=
    Nat.le_antisymm (Nat.size_le.mpr Nat.lt_log2_self) (Nat.lt_size.mpr (Nat.log2_self_le pos.ne'))
  exact ⟨fun he => he ▸ Nat.size_zero, size_log,
    fun m r b => modpowLoop_of_lt_two_pow m r b (Nat.lt_size_self e),
    fun k hk => ⟨2 ^ e + 1, 1, 2, (modpowLoop_lt_of_two_pow_le (Nat.lt_size.mp hk)).ne⟩,
    fun word => ⟨Nat.size_le.mpr word, fun m r b => modpowLoop_of_lt_two_pow m r b word⟩⟩

end Sys2Proof.Machine
end

section
/-! The extended Euclidean loop (42_modular_inverse.md R170, R171): its remainder ends at the gcd, and every coefficient
it keeps is a Bézout coefficient modulo `m`. -/

namespace Sys2Proof.Machine

/-- The loop's invariant `e * t ≡ r` and `e * newT ≡ newR` (mod m), and what it gives at the end. -/
theorem modinvLoop_bezout {e m newR r : Nat} {t newT : Int} (ht : (e : Int) * t ≡ r [ZMOD m])
    (hnewT : (e : Int) * newT ≡ newR [ZMOD m]) :
    (modinvLoop newR r newR t newT).1 = Nat.gcd r newR ∧
      (e : Int) * (modinvLoop newR r newR t newT).2 ≡ Nat.gcd r newR [ZMOD m] := by
  induction newR using Nat.strongRecOn generalizing r t newT with
  | ind newR ih =>
    rcases Nat.eq_zero_or_pos newR with rfl | hpos
    · rw [modinvLoop_end, Nat.gcd_zero_right]
      exact ⟨rfl, ht⟩
    · have remainder : (r : Int) - (r / newR : Nat) * newR = (r % newR : Nat) := by
        have := Nat.div_add_mod' r newR
        omega
      have next : (e : Int) * (t - (r / newR : Nat) * newT) ≡ (r % newR : Nat) [ZMOD m] := by
        rw [← remainder, mul_sub, mul_left_comm]
        exact ht.sub (hnewT.mul_left _)
      rw [modinvLoop_round r t newT hpos, Nat.gcd_comm r newR, Nat.gcd_rec, Nat.gcd_comm (r % newR)]
      exact ih (r % newR) (Nat.mod_lt r hpos) hnewT next

/-- `modinv_fn` looks at the gcd, and its coefficient inverts `e` modulo `m` up to the gcd. -/
theorem modinvFn_eq (e m : Nat) :
    ∃ t : Int, (e : Int) * t ≡ Nat.gcd e m [ZMOD m] ∧
      modinvFn e m = if 1 < Nat.gcd e m then none else some (t % m).toNat := by
  obtain ⟨remainder, coefficient⟩ := modinvLoop_bezout (e := e) (m := m) (newR := e) (r := m) (t := 0) (newT := 1)
    (by simp [Int.ModEq]) (by simp [Int.ModEq])
  rw [Nat.gcd_comm] at remainder coefficient
  exact ⟨_, coefficient, by rw [modinvFn, remainder]⟩

theorem modinvFn_eq_none {e m : Nat} (h : 1 < Nat.gcd e m) : modinvFn e m = none := by
  obtain ⟨t, -, value⟩ := modinvFn_eq e m
  rw [value, if_pos h]

theorem modinvFn_eq_some {e m : Nat} (pos : 0 < m) (h : Nat.gcd e m = 1) :
    ∃ d, modinvFn e m = some d ∧ d < m ∧ e * d % m = 1 % m := by
  obtain ⟨t, coefficient, value⟩ := modinvFn_eq e m
  have nonneg : 0 ≤ t % m := Int.emod_nonneg t (by omega)
  have below : t % m < m := Int.emod_lt_of_pos t (by omega)
  refine ⟨_, by rw [value, if_neg (by omega)], by omega, ?_⟩
  have inverse : (e : Int) * (t % m).toNat ≡ 1 [ZMOD m] := by
    rw [Int.toNat_of_nonneg nonneg]
    exact ((Int.mod_modEq t m).mul_left e).trans (by rwa [h] at coefficient)
  exact_mod_cast inverse

theorem modinvFn_eq_none_iff {e m : Nat} (pos : 0 < m) : modinvFn e m = none ↔ 1 < Nat.gcd e m := by
  refine ⟨fun h => ?_, modinvFn_eq_none⟩
  by_contra notLarge
  have gcd_pos := Nat.gcd_pos_of_pos_right e pos
  obtain ⟨d, value, -⟩ := modinvFn_eq_some pos (show Nat.gcd e m = 1 by omega)
  simp [h] at value

/-- An inverse below the modulus is the only one. -/
theorem inverse_unique {e m d d' : Nat} (coprime : Nat.gcd e m = 1) (hd : d < m) (hd' : d' < m)
    (inverse : e * d % m = 1 % m) (inverse' : e * d' % m = 1 % m) : d' = d := by
  have same : e * d' ≡ e * d [MOD m] := inverse'.trans inverse.symm
  exact (Nat.ModEq.cancel_left_of_coprime (by rwa [Nat.gcd_comm]) same).eq_of_lt_of_lt hd' hd

/-- Settles O18: the Bézout coefficient gives the inverse, and an inverse below the modulus is unique. -/
theorem modinvFnIsInverse : Obligations.ModinvFnIsInverse := by
  unfold Obligations.ModinvFnIsInverse
  refine fun e m pos => ⟨modinvFn_eq_none, fun coprime => ?_⟩
  obtain ⟨d, value, below, inverse⟩ := modinvFn_eq_some pos coprime
  exact ⟨d, value, below, inverse, fun d' below' inverse' => inverse_unique coprime below below' inverse inverse'⟩

end Sys2Proof.Machine
end

section
/-! The exponent search (43_key_derivation.md R192) and the Fermat test (41_primality.md R150, R151). -/

namespace Sys2Proof.Machine

/-! ### The search -/

/-- What the search finds from `e` on is the least candidate from there on. -/
theorem searchLoop_eq_some {phi fuel e x : Nat} (three : 3 ≤ e) (odd : e % 2 = 1)
    (found : searchLoop phi fuel e = some x) :
    Searched phi x ∧ ∀ e', Searched phi e' → e ≤ e' → x ≤ e' := by
  induction fuel generalizing e with
  | zero => cases found
  | succ fuel ih =>
    rw [searchLoop] at found
    split_ifs at found with below coprime
    · obtain rfl := Option.some.inj found
      exact ⟨⟨three, odd, below, by rwa [← gcdFn_eq_gcd]⟩, fun _ _ h => h⟩
    · obtain ⟨candidate, least⟩ := ih (by omega) (by omega) found
      refine ⟨candidate, fun e' searched from_e => least e' searched ?_⟩
      obtain ⟨-, odd', -, coprime'⟩ := searched
      have passed : e' ≠ e := by
        rintro rfl
        exact coprime (by rwa [gcdFn_eq_gcd])
      omega

/-- When the search finds nothing from `e` on, there is no candidate from there on. -/
theorem searchLoop_eq_none {phi fuel e : Nat} (enough : phi ≤ fuel + e) (odd : e % 2 = 1)
    (nothing : searchLoop phi fuel e = none) : ∀ e', Searched phi e' → e' < e := by
  induction fuel generalizing e with
  | zero =>
    rintro e' ⟨-, -, below, -⟩
    omega
  | succ fuel ih =>
    rw [searchLoop] at nothing
    split_ifs at nothing with below coprime
    · intro e' searched
      have before := ih (by omega) (by omega) nothing e' searched
      obtain ⟨-, odd', -, coprime'⟩ := searched
      have passed : e' ≠ e := by
        rintro rfl
        exact coprime (by rwa [gcdFn_eq_gcd])
      omega
    · rintro e' ⟨-, -, below', -⟩
      omega

theorem searchE_eq_some {phi e : Nat} (found : searchE phi = some e) :
    Searched phi e ∧ ∀ e', Searched phi e' → e ≤ e' := by
  obtain ⟨candidate, least⟩ := searchLoop_eq_some (by decide) (by decide) found
  exact ⟨candidate, fun e' searched => least e' searched searched.1⟩

theorem searchE_eq_some_iff (phi e : Nat) :
    searchE phi = some e ↔ Searched phi e ∧ ∀ e', Searched phi e' → e ≤ e' := by
  refine ⟨searchE_eq_some, fun ⟨candidate, least⟩ => ?_⟩
  cases found : searchE phi with
  | none =>
    have := searchLoop_eq_none (by omega) (by decide) found e candidate
    have := candidate.1
    omega
  | some x =>
    obtain ⟨candidate', least'⟩ := searchE_eq_some found
    rw [Nat.le_antisymm (least' e candidate) (least x candidate')]

theorem searchE_eq_none_iff (phi : Nat) : searchE phi = none ↔ ∀ e, ¬ Searched phi e := by
  refine ⟨fun nothing e candidate => ?_, fun none_searched => ?_⟩
  · have := searchLoop_eq_none (by omega) (by decide) nothing e candidate
    have := candidate.1
    omega
  · cases found : searchE phi with
    | none => rfl
    | some x => exact absurd (searchE_eq_some found).1 (none_searched x)

/-- Settles O24: below 4 no odd number from 3 on is left for the search. -/
theorem searchFindsLeastExponent : Obligations.SearchFindsLeastExponent := by
  unfold Obligations.SearchFindsLeastExponent
  refine fun phi => ⟨searchE_eq_some_iff phi, searchE_eq_none_iff phi, fun small => ?_⟩
  rw [searchE_eq_none_iff]
  rintro e ⟨three, -, below, -⟩
  omega

/-! ### The draws and the test -/

theorem witnessIn_of_mem {n r : Nat} (low : 2 ≤ r) (high : r + 2 ≤ n) : witnessIn n r = r :=
  if_pos ⟨low, high⟩

/-- Settles O20: an output in the range is the draw, any other is brought into the range. -/
theorem drawsFillTheirRange : Obligations.DrawsFillTheirRange := by
  unfold Obligations.DrawsFillTheirRange
  intro n r five
  have range := witnessIn_range r five
  exact ⟨⟨range.1, by omega⟩, fun low high => witnessIn_of_mem low (by omega)⟩

theorem fermatFn_refused {n : Nat} (wc : Nat) (raw : Nat → Nat) (k : Nat) (h : n ≤ 1 ∨ n = 4) :
    fermatFn n wc raw k = (false, k) := by
  rcases h with small | rfl
  · rw [fermatFn, if_pos small]
  · rfl

theorem fermatFn_accepted {n : Nat} (wc : Nat) (raw : Nat → Nat) (k : Nat) (h : n = 2 ∨ n = 3) :
    fermatFn n wc raw k = (true, k) := by
  rcases h with rfl | rfl <;> rfl

theorem fermatFn_loop {n : Nat} (wc : Nat) (raw : Nat → Nat) (k : Nat) (five : 5 ≤ n) :
    fermatFn n wc raw k = fermatLoop n raw wc k := by
  rw [fermatFn, if_neg (by omega), if_neg (by omega), if_neg (by omega)]

theorem fermatLoop_succ (n : Nat) (raw : Nat → Nat) (rounds k : Nat) :
    fermatLoop n raw (rounds + 1) k =
      if witnessIn n (raw k) ^ (n - 1) % n = 1 then fermatLoop n raw rounds (k + 1) else (false, k + 1) := by
  rw [fermatLoop, modpowFn_eq_pow_mod, ite_not]

/-- Rounds that pass bring the loop to the next draw. -/
theorem fermatLoop_skip {n k passed : Nat} {raw : Nat → Nat} (rounds : Nat)
    (pass : ∀ j, j < passed → witnessIn n (raw (k + j)) ^ (n - 1) % n = 1) :
    fermatLoop n raw (passed + rounds) k = fermatLoop n raw rounds (k + passed) := by
  induction passed generalizing rounds with
  | zero => rw [Nat.zero_add, Nat.add_zero]
  | succ i ih =>
    rw [Nat.add_assoc, Nat.add_comm 1, ih (rounds + 1) fun j hj => pass j (by omega), fermatLoop_succ,
      if_pos (pass i (by omega)), Nat.add_assoc]

theorem fermatFn_passes {n wc k : Nat} {raw : Nat → Nat} (five : 5 ≤ n)
    (pass : ∀ j, j < wc → witnessIn n (raw (k + j)) ^ (n - 1) % n = 1) :
    fermatFn n wc raw k = (true, k + wc) := by
  rw [fermatFn_loop wc raw k five]
  exact fermatLoop_skip 0 pass

theorem fermatFn_fails {n wc k i : Nat} {raw : Nat → Nat} (five : 5 ≤ n) (round : i < wc)
    (pass : ∀ j, j < i → witnessIn n (raw (k + j)) ^ (n - 1) % n = 1)
    (fail : witnessIn n (raw (k + i)) ^ (n - 1) % n ≠ 1) :
    fermatFn n wc raw k = (false, k + i + 1) := by
  obtain ⟨rest, rfl⟩ := Nat.exists_eq_add_of_lt round
  rw [fermatFn_loop _ raw k five, Nat.add_assoc, fermatLoop_skip (rest + 1) pass, fermatLoop_succ, if_neg fail]

/-- Settles O58: up to 4 by the first branches, from 5 on by the loop. -/
theorem fermatFnVerdict : Obligations.FermatFnVerdict := by
  unfold Obligations.FermatFnVerdict
  exact fun n wc raw k => ⟨fermatFn_refused wc raw k, fermatFn_accepted wc raw k, fermatFn_passes,
    fun five _ => fermatFn_fails five⟩

end Sys2Proof.Machine
end

section
/-! The commands MODINV and PRIME, settled (42_modular_inverse.md R172, 41_primality.md R152 to R154). -/

namespace Sys2Proof.Machine

theorem toNat_pos_of_ne_zero {v : Word} (h : v ≠ 0) : 0 < v.toNat :=
  Nat.pos_of_ne_zero (BitVec.toNat_ne.mp h)

/-! ### MODINV -/

theorem exec_modinv_zeroModulus {s : State} {p : Pending} (rd rs1 rs2 : RegIdx) (pending : s.pend = some p)
    (zero : p.v2 = 0) : exec (.modinv rd rs1 rs2) s = .next (s.ended .zeroModulus 0) := by
  rw [exec, execModinv, completing_some pending, if_pos zero, State.raise_eq]

theorem exec_modinv_noInverse {s : State} {p : Pending} (rd rs1 rs2 : RegIdx) (pending : s.pend = some p)
    (modulus : p.v2 ≠ 0) (value : modinvFn p.v1.toNat p.v2.toNat = none) :
    exec (.modinv rd rs1 rs2) s = .next (s.ended .noInverse 0) := by
  simp only [exec, execModinv, completing_some pending, if_neg modulus, value, State.raise_eq]

theorem exec_modinv_inverse {s : State} {p : Pending} {d : Nat} (rd rs1 rs2 : RegIdx) (pending : s.pend = some p)
    (modulus : p.v2 ≠ 0) (value : modinvFn p.v1.toNat p.v2.toNat = some d) :
    exec (.modinv rd rs1 rs2) s = .next (s.endedWith rd d) := by
  simp only [exec, execModinv, completing_some pending, if_neg modulus, value, State.completeWrite_u32]

/-- Settles O19: the three ends of the command, told apart by what `modinv_fn` answers. -/
theorem modinvWritesInverse : Obligations.ModinvWritesInverse := by
  unfold Obligations.ModinvWritesInverse
  refine fun rd rs1 rs2 => ⟨rfl, fun _ => ⟨rfl, rfl⟩, fun s p pending =>
    ⟨exec_modinv_zeroModulus rd rs1 rs2 pending, fun modulus large => ?_, fun modulus coprime => ?_⟩⟩
  · exact exec_modinv_noInverse rd rs1 rs2 pending modulus (modinvFn_eq_none large)
  · obtain ⟨d, value, below, inverse⟩ := modinvFn_eq_some (toNat_pos_of_ne_zero modulus) coprime
    exact ⟨d, exec_modinv_inverse rd rs1 rs2 pending modulus value, below, inverse⟩

/-! ### PRIME -/

theorem exec_prime {s : State} {p : Pending} {verdict : Bool} {used : Nat} (rd rs1 : RegIdx)
    (pending : s.pend = some p) (tested : fermatFn p.v1.toNat p.wc.toNat s.raw 0 = (verdict, used)) :
    exec (.prime rd rs1) s = .next ((s.drew used).endedWith rd verdict.toNat) := by
  simp only [exec, execPrime, completing_some pending, tested, State.completeWrite_eq, State.consume_eq_drew]
  cases verdict <;> rfl

/-- Settles O21: PRIME writes the verdict of `fermat_fn`, the draws counted from the source's next output. -/
theorem primeWritesVerdict : Obligations.PrimeWritesVerdict := by
  unfold Obligations.PrimeWritesVerdict
  refine fun rd rs1 => ⟨rfl, fun _ => ⟨rfl, rfl⟩, fun s p pending => ⟨fun small => ?_, fun small => ?_,
    fun five pass => ?_, fun five k round pass fail => ?_⟩⟩
  · exact exec_prime rd rs1 pending (fermatFn_refused _ _ 0 small)
  · exact exec_prime rd rs1 pending (fermatFn_accepted _ _ 0 small)
  · refine exec_prime (verdict := true) rd rs1 pending ?_
    rw [fermatFn_passes five (by simpa using pass), Nat.zero_add]
  · refine exec_prime (verdict := false) rd rs1 pending ?_
    rw [fermatFn_fails five round (by simpa using pass) (by simpa using fail), Nat.zero_add]

/-- Fermat's little theorem for a draw: it lies strictly between 0 and the prime, so it is coprime to it. -/
theorem witnessIn_pow_of_prime {n : Nat} (prime : n.Prime) (five : 5 ≤ n) (r : Nat) :
    witnessIn n r ^ (n - 1) % n = 1 := by
  have range := witnessIn_range r five
  have coprime : Nat.Coprime (witnessIn n r) n :=
    (Nat.coprime_of_lt_prime (by omega) (by omega) prime).symm
  have fermat := Nat.ModEq.pow_totient coprime
  rw [Nat.totient_prime prime] at fermat
  exact Eq.trans fermat (Nat.mod_eq_of_lt (by omega))

theorem fermatFn_of_prime {n : Nat} (prime : n.Prime) (wc : Nat) (raw : Nat → Nat) (k : Nat) :
    fermatFn n wc raw k = (true, k + if n ≤ 3 then 0 else wc) := by
  have two := prime.two_le
  by_cases small : n ≤ 3
  · rw [if_pos small, fermatFn_accepted wc raw k (by omega), Nat.add_zero]
  · have four : n ≠ 4 := by
      rintro rfl
      exact absurd prime (by decide)
    have five : 5 ≤ n := by omega
    rw [if_neg small, fermatFn_passes five fun j _ => witnessIn_pow_of_prime prime five _]

/-- Settles O22: no draw refutes a prime. -/
theorem primeAcceptsEveryPrime : Obligations.PrimeAcceptsEveryPrime := by
  unfold Obligations.PrimeAcceptsEveryPrime
  intro rd rs1 s p pending prime
  refine exec_prime (verdict := true) rd rs1 pending ?_
  rw [fermatFn_of_prime prime, Nat.zero_add]

theorem State.raw_of_supplied {s : State} {k d : Nat} (h : s.env.supply[k]? = some d) : s.raw k = d := by
  rw [State.raw, h, Option.getD_some]

/-- Settles O23: with every draw the liar 4 the number 15 is accepted, and 2 as the first draw refutes it. -/
theorem primeVerdictDependsOnDraws : Obligations.PrimeVerdictDependsOnDraws := by
  unfold Obligations.PrimeVerdictDependsOnDraws
  intro rd rs1 s p pending operand rounds
  have operand' : p.v1.toNat = 15 := by rw [operand]; rfl
  have some_round : 0 < p.wc.toNat := Nat.pos_of_ne_zero (BitVec.toNat_ne.mp rounds)
  refine ⟨List.replicate p.wc.toNat 4, [2], _, _,
    exec_prime (verdict := true) (used := 0 + p.wc.toNat) rd rs1 pending ?_, State.x_endedWith_same _ _ _,
    exec_prime (verdict := false) (used := 0 + 0 + 1) rd rs1 pending ?_, State.x_endedWith_same _ _ _⟩
  · rw [operand']
    refine fermatFn_passes (by decide) fun j hj => ?_
    rw [State.raw_of_supplied (d := 4) (by simp [hj])]
    decide
  · rw [operand']
    refine fermatFn_fails (by decide) some_round (fun j hj => absurd hj (Nat.not_lt_zero j)) ?_
    rw [State.raw_of_supplied (d := 2) rfl]
    decide

end Sys2Proof.Machine
end

section
/-! The commands ENCRYPT and DECCRT, settled (44_cipher.md R230, R232, R233), and what a valid key says of its
moduli. -/

namespace Sys2Proof.Machine

/-! ### ENCRYPT -/

theorem exec_encrypt_noKey {s : State} {p : Pending} (rd rs1 : RegIdx) (pending : s.pend = some p)
    (noKey : s.status.keyValid = false) : exec (.encrypt rd rs1) s = .next (s.ended .noKey 0) := by
  simp only [exec, execEncrypt, completing_some pending, noKey, Bool.false_eq_true, if_false, State.raise_eq]

theorem exec_encrypt_keyed {s : State} {p : Pending} (rd rs1 : RegIdx) (pending : s.pend = some p)
    (held : s.status.keyValid = true) (modulus : s.key.n ≠ 0) :
    exec (.encrypt rd rs1) s =
      .next (s.endedWith rd (p.v1.toNat ^ s.key.e.toNat % s.key.n.toNat)) := by
  have inDomain : (s.key.n == 0) = false := beq_eq_false_iff_ne.mpr modulus
  simp only [exec, execEncrypt, completing_some pending, held, if_true, cipherValue_u32 inDomain,
    State.completeWrite_u32, modpowFn_eq_pow_mod]

/-- Settles O32: without a key the report alone, under a held key the power with the public exponent. -/
theorem encryptWritesPower : Obligations.EncryptWritesPower := by
  unfold Obligations.EncryptWritesPower
  exact fun rd rs1 => ⟨rfl, fun _ => rfl, fun _ _ pending =>
    ⟨exec_encrypt_noKey rd rs1 pending, exec_encrypt_keyed rd rs1 pending⟩⟩

/-! ### DECCRT -/

theorem exec_deccrt_noKey {s : State} {p : Pending} (rd rs1 : RegIdx) (pending : s.pend = some p)
    (noCrt : s.status.crtValid = false) : exec (.deccrt rd rs1) s = .next (s.ended .noKey 0) := by
  simp only [exec, execDeccrt, completing_some pending, noCrt, Bool.false_eq_true, if_false, State.raise_eq]

theorem exec_deccrt_keyed {s : State} {p : Pending} (rd rs1 : RegIdx) (pending : s.pend = some p)
    (held : s.status.crtValid = true) (prime : s.key.p ≠ 0) (prime' : s.key.q ≠ 0) :
    exec (.deccrt rd rs1) s =
      .next (s.endedWith rd (crtDecryptFn p.v1.toNat s.key.p.toNat s.key.q.toNat s.key.dp.toNat s.key.dq.toNat
        s.key.qinv.toNat)) := by
  have inDomain : (s.key.p == 0 || s.key.q == 0) = false := by
    rw [beq_eq_false_iff_ne.mpr prime, beq_eq_false_iff_ne.mpr prime', Bool.or_self]
  simp only [exec, execDeccrt, completing_some pending, held, if_true, cipherValue_u32 inDomain,
    State.completeWrite_u32]

/-- R232 over the integers: with `p` above 0 the reduced difference of the residues is no negative number. -/
theorem crtDecryptFn_eq {c p q dp dq qinv h : Nat} (pos : 0 < p)
    (factor : (h : Int) = qinv * (((c ^ dp % p : Nat) - (c ^ dq % q : Nat) : Int) % p) % p) :
    crtDecryptFn c p q dp dq qinv = c ^ dq % q + h * q := by
  have nonneg : 0 ≤ ((c ^ dp % p : Nat) - (c ^ dq % q : Nat) : Int) % p := Int.emod_nonneg _ (by omega)
  obtain ⟨difference, reduced⟩ := Int.eq_ofNat_of_zero_le nonneg
  rw [reduced] at factor
  have product : h = qinv * difference % p := by exact_mod_cast factor
  simp only [crtDecryptFn, modpowFn_eq_pow_mod, mulmodFn, reduced, Int.toNat_natCast, product]

/-- Settles O35: the residues and the factor of the statement are those of `crt_decrypt_fn`. -/
theorem deccrtWritesGarner : Obligations.DeccrtWritesGarner := by
  unfold Obligations.DeccrtWritesGarner
  refine fun rd rs1 => ⟨rfl, fun _ => rfl, fun s p pending => ⟨exec_deccrt_noKey rd rs1 pending, ?_⟩⟩
  rintro held prime prime' m1 m2 h rfl rfl factor
  rw [exec_deccrt_keyed rd rs1 pending held prime prime', crtDecryptFn_eq (toNat_pos_of_ne_zero prime) factor]

/-- What R232 gives: a number below `p * q` with the two residues. -/
theorem crtDecryptFn_residues {c p q dp dq qinv : Nat} (hp : 0 < p) (hq : 0 < q) (inverse : q * qinv % p = 1 % p) :
    crtDecryptFn c p q dp dq qinv < p * q ∧ crtDecryptFn c p q dp dq qinv ≡ c ^ dp [MOD p] ∧
      crtDecryptFn c p q dp dq qinv ≡ c ^ dq [MOD q] := by
  obtain ⟨h, factor⟩ := Int.eq_ofNat_of_zero_le
    (Int.emod_nonneg (qinv * (((c ^ dp % p : Nat) - (c ^ dq % q : Nat) : Int) % p)) (b := p) (by omega))
  have bound : h < p := by
    have := Int.emod_lt_of_pos (qinv * (((c ^ dp % p : Nat) - (c ^ dq % q : Nat) : Int) % p)) (b := p) (by omega)
    omega
  rw [crtDecryptFn_eq hp factor.symm]
  refine ⟨?_, ?_, ?_⟩
  · calc c ^ dq % q + h * q < q + h * q := by gcongr; exact Nat.mod_lt _ hq
      _ = (h + 1) * q := by ring
      _ ≤ p * q := Nat.mul_le_mul_right q bound
  · -- `h * q` makes up for the difference of the residues
    have unit : (q * qinv : Int) ≡ 1 [ZMOD p] := by exact_mod_cast inverse
    have scaled : (h : Int) * q ≡ (c ^ dp % p : Nat) - (c ^ dq % q : Nat) [ZMOD p] := by
      have reduced : (h : Int) ≡ qinv * ((c ^ dp % p : Nat) - (c ^ dq % q : Nat)) [ZMOD p] := by
        rw [← factor]
        exact (Int.mod_modEq _ _).trans ((Int.mod_modEq _ _).mul_left _)
      calc (h : Int) * q ≡ qinv * ((c ^ dp % p : Nat) - (c ^ dq % q : Nat)) * q [ZMOD p] := reduced.mul_right _
        _ = q * qinv * ((c ^ dp % p : Nat) - (c ^ dq % q : Nat)) := by ring
        _ ≡ 1 * ((c ^ dp % p : Nat) - (c ^ dq % q : Nat)) [ZMOD p] := unit.mul_right _
        _ = (c ^ dp % p : Nat) - (c ^ dq % q : Nat) := one_mul _
    have total : ((c ^ dq % q + h * q : Nat) : Int) ≡ (c ^ dp % p : Nat) [ZMOD p] := by
      have := scaled.add_left ((c ^ dq % q : Nat) : Int)
      push_cast at this ⊢
      rwa [add_sub_cancel] at this
    exact ((Int.natCast_modEq_iff).mp total).trans (Nat.mod_modEq _ _)
  · rw [Nat.ModEq, Nat.add_mul_mod_self_right, Nat.mod_mod]

/-- The residues determine a number below `p * q`, the two moduli being coprime. -/
theorem eq_crtDecryptFn_iff {c p q dp dq qinv : Nat} (hp : 1 < p) (hq : 0 < q) (inverse : q * qinv % p = 1) (m : Nat) :
    m = crtDecryptFn c p q dp dq qinv ↔ m < p * q ∧ m % p = c ^ dp % p ∧ m % q = c ^ dq % q := by
  have unit : q * qinv ≡ 1 [MOD p] := inverse.trans (Nat.mod_eq_of_lt hp).symm
  obtain ⟨below, residue, residue'⟩ := crtDecryptFn_residues (c := c) (dp := dp) (dq := dq) (by omega) hq unit
  refine ⟨fun h => h ▸ ⟨below, residue, residue'⟩, fun ⟨below', same, same'⟩ => ?_⟩
  have coprime : Nat.Coprime p q :=
    (Nat.Coprime.coprime_mul_right (m := q) (k := qinv) (by rw [Nat.Coprime, unit.gcd_eq, Nat.gcd_one_left])).symm
  exact ((Nat.modEq_and_modEq_iff_modEq_mul coprime).mp
    ⟨Nat.ModEq.trans same residue.symm, Nat.ModEq.trans same' residue'.symm⟩).eq_of_lt_of_lt below' below

/-- Settles O36, by the Chinese remainder theorem. -/
theorem garnerIsTheCrtSolution : Obligations.GarnerIsTheCrtSolution := by
  unfold Obligations.GarnerIsTheCrtSolution
  exact fun _ _ _ _ _ _ => eq_crtDecryptFn_iff

/-! ### A valid key -/

/-- Two distinct numbers from 2 on have a product of at least 6. -/
theorem KeyFile.Holds.six_le {k : KeyFile} (h : k.Holds) : 6 ≤ k.n.toNat := by
  have distinct := BitVec.toNat_ne.mp h.distinct
  have p_ge := h.p_ge
  have q_ge := h.q_ge
  rw [h.modulus]
  rcases Nat.lt_or_ge k.p.toNat k.q.toNat with less | ge
  · exact Nat.mul_le_mul (show 2 ≤ k.p.toNat by omega) (show 3 ≤ k.q.toNat by omega)
  · exact Nat.mul_le_mul (show 3 ≤ k.p.toNat by omega) (show 2 ≤ k.q.toNat by omega)

theorem ne_zero_of_toNat_pos {v : Word} (h : 0 < v.toNat) : v ≠ 0 := by
  rintro rfl
  exact absurd h (by decide)

theorem KeyFile.Holds.n_ne_zero {k : KeyFile} (h : k.Holds) : k.n ≠ 0 :=
  ne_zero_of_toNat_pos (Nat.lt_of_lt_of_le (by decide) h.six_le)

theorem KeyFile.Holds.p_ne_zero {k : KeyFile} (h : k.Holds) : k.p ≠ 0 :=
  ne_zero_of_toNat_pos (Nat.lt_of_lt_of_le (by decide) h.p_ge)

theorem KeyFile.Holds.q_ne_zero {k : KeyFile} (h : k.Holds) : k.q ≠ 0 :=
  ne_zero_of_toNat_pos (Nat.lt_of_lt_of_le (by decide) h.q_ge)

/-- Settles O33: the bound on KPHI is that of the exponent, which lies strictly between 1 and it. -/
theorem validModulusIsAtLeastSix : Obligations.ValidModulusIsAtLeastSix := by
  unfold Obligations.ValidModulusIsAtLeastSix
  intro s inv valid
  have key := inv.holds valid
  exact ⟨key.six_le, key.p_ne_zero, key.q_ne_zero, key.e_gt.trans key.e_lt⟩

end Sys2Proof.Machine
end

section
/-! The two decryptions under a key with prime KP and KQ, settled (43_key_derivation.md R200, 44_cipher.md R234): both
rest on Fermat's little theorem modulo each prime. -/

namespace Sys2Proof.Machine

/-! ### Powers modulo a prime -/

/-- Multiples of `p - 1` do not count in a positive exponent, also where the prime divides the base. -/
theorem pow_add_modEq_of_prime {p j k : Nat} (prime : p.Prime) (c : Nat) (pos : 0 < j) (multiple : p - 1 ∣ k) :
    c ^ (j + k) ≡ c ^ j [MOD p] := by
  by_cases divides : p ∣ c
  · have vanishes {n : Nat} (hn : 0 < n) : c ^ n ≡ 0 [MOD p] :=
      Nat.modEq_zero_iff_dvd.mpr (dvd_pow divides hn.ne')
    exact (vanishes (by omega)).trans (vanishes pos).symm
  · obtain ⟨t, rfl⟩ := multiple
    have fermat : c ^ (p - 1) ≡ 1 [MOD p] := by
      rw [← Nat.totient_prime prime]
      exact Nat.ModEq.pow_totient ((prime.coprime_iff_not_dvd.mpr divides).symm)
    calc c ^ (j + (p - 1) * t) = c ^ j * (c ^ (p - 1)) ^ t := by rw [pow_add, pow_mul]
      _ ≡ c ^ j * 1 ^ t [MOD p] := (fermat.pow t).mul_left _
      _ = c ^ j := by rw [one_pow, mul_one]

/-- An exponent may be reduced modulo `p - 1` as long as it does not become 0. -/
theorem pow_mod_pred_modEq {p d : Nat} (prime : p.Prime) (c : Nat) (pos : 0 < d % (p - 1)) :
    c ^ (d % (p - 1)) ≡ c ^ d [MOD p] := by
  have whole := pow_add_modEq_of_prime prime c pos (Dvd.intro (d / (p - 1)) rfl)
  rw [Nat.mod_add_div] at whole
  exact whole.symm

/-! ### A key with primes -/

/-- The two exponents of a valid key undo each other modulo its modulus. -/
theorem KeyFile.Holds.roundTrip {k : KeyFile} (key : k.Holds) (prime : k.p.toNat.Prime) (prime' : k.q.toNat.Prime)
    {m : Nat} (below : m < k.n.toNat) :
    (m ^ k.e.toNat % k.n.toNat) ^ k.d.toNat % k.n.toNat = m := by
  have coprime : Nat.Coprime k.p.toNat k.q.toNat :=
    (Nat.coprime_primes prime prime').mpr (BitVec.toNat_ne.mp key.distinct)
  have exponent : k.e.toNat * k.d.toNat = 1 + k.phi.toNat * (k.e.toNat * k.d.toNat / k.phi.toNat) := by
    have := Nat.mod_add_div (k.e.toNat * k.d.toNat) k.phi.toNat
    rw [key.inverse] at this
    exact this.symm
  have fixed {p : Nat} (prime : p.Prime) (divides : p - 1 ∣ k.phi.toNat) :
      m ^ (k.e.toNat * k.d.toNat) ≡ m [MOD p] := by
    have := pow_add_modEq_of_prime prime m one_pos (divides.mul_right (k.e.toNat * k.d.toNat / k.phi.toNat))
    rwa [← exponent, pow_one] at this
  have both : m ^ (k.e.toNat * k.d.toNat) ≡ m [MOD k.n.toNat] := by
    rw [key.modulus]
    refine (Nat.modEq_and_modEq_iff_modEq_mul coprime).mp ⟨fixed prime ?_, fixed prime' ?_⟩
    · exact key.totient ▸ Dvd.intro _ rfl
    · exact key.totient ▸ Dvd.intro_left _ rfl
  rw [← Nat.pow_mod, ← pow_mul]
  exact Eq.trans both (Nat.mod_eq_of_lt below)

/-- The exponent KD has no common factor with `p - 1`, so its reduction is not 0 when `p` is at least 3. -/
theorem KeyFile.Holds.reduced_exponent_pos {k : KeyFile} (key : k.Holds) {r : Nat} (divides : r ∣ k.phi.toNat)
    (two : 2 ≤ r) : 0 < k.d.toNat % r := by
  refine Nat.pos_of_ne_zero fun zero => ?_
  have product : r ∣ k.e.toNat * k.d.toNat := (Nat.dvd_of_mod_eq_zero zero).mul_left _
  have one : r ∣ 1 := by
    rw [← key.inverse]
    exact (Nat.dvd_mod_iff divides).mpr product
  have := Nat.le_of_dvd one_pos one
  omega

/-- Garner's result is the direct decryption: it has the same residues. -/
theorem crtDecryptFn_eq_pow {k : KeyFile} (key : k.Holds) (crt : k.CrtHolds) (prime : k.p.toNat.Prime)
    (prime' : k.q.toNat.Prime) (three : 3 ≤ k.p.toNat) (three' : 3 ≤ k.q.toNat) (c : Nat) :
    crtDecryptFn c k.p.toNat k.q.toNat k.dp.toNat k.dq.toNat k.qinv.toNat = c ^ k.d.toNat % k.n.toNat := by
  have pos := key.reduced_exponent_pos (r := k.p.toNat - 1) (key.totient ▸ Dvd.intro _ rfl) (by omega)
  have pos' := key.reduced_exponent_pos (r := k.q.toNat - 1) (key.totient ▸ Dvd.intro_left _ rfl) (by omega)
  have inverse : k.q.toNat * k.qinv.toNat % k.p.toNat = 1 :=
    crt.qinv_inverse.trans (Nat.mod_eq_of_lt (by omega))
  symm
  rw [eq_crtDecryptFn_iff (by omega) (by omega) inverse, key.modulus, crt.dp_eq, crt.dq_eq]
  refine ⟨Nat.mod_lt _ (by positivity), ?_, ?_⟩
  · rw [Nat.mod_mul_right_mod]
    exact (pow_mod_pred_modEq prime c pos).symm
  · rw [Nat.mod_mul_left_mod]
    exact (pow_mod_pred_modEq prime' c pos').symm

/-! ### The statements -/

/-- Settles O37: the register holds the whole residue, a number below KN, and decryption raises it again. -/
theorem decryptionInvertsEncryption : Obligations.DecryptionInvertsEncryption := by
  unfold Obligations.DecryptionInvertsEncryption
  intro rd rs1 rd' rs1' s t u p p' inv valid prime prime' pending below encrypted sameKey valid' pending' operand
  have key := inv.holds valid
  have modulus := key.n_ne_zero
  rw [exec_encrypt_keyed rd rs1 pending valid modulus] at encrypted
  obtain rfl := Host.Outcome.next.inj encrypted
  rw [State.endedWith_key] at sameKey
  have stored : p'.v1.toNat = p.v1.toNat ^ s.key.e.toNat % s.key.n.toNat := by
    have residue := Nat.mod_lt (p.v1.toNat ^ s.key.e.toNat) (toNat_pos_of_ne_zero modulus)
    have word := s.key.n.isLt
    rw [operand, State.x_endedWith_same, BitVec.toNat_ofNat, Nat.mod_eq_of_lt (by omega)]
  rw [exec_decrypt_keyed rd' rs1' pending' valid' (sameKey ▸ modulus), sameKey, stored,
    key.roundTrip prime prime' below]

/-- Settles O38: the two commands write one number; under the key of the example they write 4 and 9. -/
theorem crtDecryptionEqualsDirect : Obligations.CrtDecryptionEqualsDirect := by
  unfold Obligations.CrtDecryptionEqualsDirect
  constructor
  · intro rd rs1 s p inv crtValid prime prime' three three' pending
    have valid := inv.crt_key crtValid
    have key := inv.holds valid
    rw [exec_deccrt_keyed rd rs1 pending crtValid key.p_ne_zero key.q_ne_zero,
      exec_decrypt_keyed rd rs1 pending valid key.n_ne_zero,
      crtDecryptFn_eq_pow key (inv.crt_holds crtValid) prime prime' three three']
  · intro rd rs1 s p crtValid valid key pending operand
    have decrypted : p.v1.toNat ^ s.key.d.toNat % s.key.n.toNat = 4 := by rw [operand, key]; decide
    have combined : crtDecryptFn p.v1.toNat s.key.p.toNat s.key.q.toNat s.key.dp.toNat s.key.dq.toNat
        s.key.qinv.toNat = 9 := by rw [operand, key]; decide
    constructor
    · rw [exec_decrypt_keyed rd rs1 pending valid (by rw [key]; decide), decrypted]
    · rw [exec_deccrt_keyed rd rs1 pending crtValid (by rw [key]; decide) (by rw [key]; decide), combined]

end Sys2Proof.Machine
end

section
/-! Key derivation step by step (43_key_derivation.md R190 to R193): what each check of `key_derive_fn` lets pass and
what it raises, and the key that comes out at the end. -/

namespace Sys2Proof.Machine

/-! ### Step 1: the primes -/

theorem two_le_of_fermatFn {n wc k : Nat} {raw : Nat → Nat} (accepted : (fermatFn n wc raw k).1 = true) : 2 ≤ n := by
  by_contra small
  simp [fermatFn_refused wc raw k (.inl (show n ≤ 1 by omega))] at accepted

theorem PrimesAccepted.two_le {val : Bool} {p q wc used : Nat} {raw : Nat → Nat}
    (h : PrimesAccepted val p q wc raw used) : 2 ≤ p ∧ 2 ≤ q := by
  rcases h with ⟨-, hp, hq, -⟩ | ⟨-, hp, hq⟩
  · exact ⟨hp, hq⟩
  · exact ⟨two_le_of_fermatFn hp, two_le_of_fermatFn (congrArg Prod.fst hq)⟩

theorem PrimesAccepted.used_eq_zero {p q wc used : Nat} {raw : Nat → Nat}
    (h : PrimesAccepted false p q wc raw used) : used = 0 := by
  rcases h with ⟨-, -, -, zero⟩ | ⟨tested, -⟩
  · exact zero
  · cases tested

theorem keyDeriveFn_accepted {val : Bool} {p q wc used : Nat} {raw : Nat → Nat}
    (h : PrimesAccepted val p q wc raw used) (eIn : Nat) (auto crt : Bool) :
    keyDeriveFn p q eIn auto val crt wc raw = (deriveKey p q eIn auto crt, used) := by
  rcases h with ⟨rfl, hp, hq, rfl⟩ | ⟨rfl, hp, hq⟩
  · simp [keyDeriveFn, trustPrimes, Nat.not_lt.mpr hp, Nat.not_lt.mpr hq]
  · simp [keyDeriveFn, testPrimes, hp, hq]

section
variable {p q wc : Nat} {raw : Nat → Nat} (eIn : Nat) (auto crt : Bool)

theorem keyDeriveFn_small_p (small : p < 2) :
    keyDeriveFn p q eIn auto false crt wc raw = (.error ⟨.notPrime, 1⟩, 0) := by
  simp [keyDeriveFn, trustPrimes, small]

theorem keyDeriveFn_small_q (hp : 2 ≤ p) (small : q < 2) :
    keyDeriveFn p q eIn auto false crt wc raw = (.error ⟨.notPrime, 2⟩, 0) := by
  simp [keyDeriveFn, trustPrimes, Nat.not_lt.mpr hp, small]

theorem keyDeriveFn_refuted_p {used : Nat} (refuted : fermatFn p wc raw 0 = (false, used)) :
    keyDeriveFn p q eIn auto true crt wc raw = (.error ⟨.notPrime, 1⟩, used) := by
  simp [keyDeriveFn, testPrimes, refuted]

theorem keyDeriveFn_refuted_q {first used : Nat} (accepted : fermatFn p wc raw 0 = (true, first))
    (refuted : fermatFn q wc raw first = (false, used)) :
    keyDeriveFn p q eIn auto true crt wc raw = (.error ⟨.notPrime, 2⟩, used) := by
  simp [keyDeriveFn, testPrimes, accepted, refuted]

end

/-- Step 1 ends in one of two ways, whatever the rest of the derivation is asked for. -/
theorem primes_refused_or_accepted (val : Bool) (p q wc : Nat) (raw : Nat → Nat) :
    (∃ info used, (info = 1 ∨ info = 2) ∧ (val = false → used = 0) ∧
      ∀ eIn auto crt, keyDeriveFn p q eIn auto val crt wc raw = (.error ⟨.notPrime, info⟩, used)) ∨
    ∃ used, PrimesAccepted val p q wc raw used := by
  cases val with
  | false =>
    rcases Nat.lt_or_ge p 2 with small | hp
    · exact .inl ⟨1, 0, .inl rfl, fun _ => rfl, fun eIn auto crt => keyDeriveFn_small_p eIn auto crt small⟩
    rcases Nat.lt_or_ge q 2 with small | hq
    · exact .inl ⟨2, 0, .inr rfl, fun _ => rfl, fun eIn auto crt => keyDeriveFn_small_q eIn auto crt hp small⟩
    exact .inr ⟨0, .inl ⟨rfl, hp, hq, rfl⟩⟩
  | true =>
    rcases onP : fermatFn p wc raw 0 with ⟨_ | _, first⟩
    · exact .inl ⟨1, first, .inl rfl, nofun, fun eIn auto crt => keyDeriveFn_refuted_p eIn auto crt onP⟩
    rcases onQ : fermatFn q wc raw first with ⟨_ | _, used⟩
    · exact .inl ⟨2, used, .inr rfl, nofun, fun eIn auto crt => keyDeriveFn_refuted_q eIn auto crt onP onQ⟩
    exact .inr ⟨used, .inr ⟨rfl, by rw [onP], by rw [onP, onQ]⟩⟩

/-! ### Steps 2 and 3: distinct primes and their product -/

theorem deriveKey_equal {p q : Nat} (eIn : Nat) (auto crt : Bool) (equal : p = q) :
    deriveKey p q eIn auto crt = .error ⟨.equalPrimes, 0⟩ :=
  if_pos equal

theorem deriveKey_overflow {p q : Nat} (eIn : Nat) (auto crt : Bool) (distinct : p ≠ q)
    (overflow : 2 ^ 32 - 1 < p * q) : deriveKey p q eIn auto crt = .error ⟨.operandOverflow, 0⟩ := by
  have above : p * q > Config.maxModulus := overflow
  rw [deriveKey, if_neg distinct, if_pos above]

theorem deriveKey_exponents {p q : Nat} (eIn : Nat) (auto crt : Bool) (distinct : p ≠ q)
    (fits : p * q ≤ 2 ^ 32 - 1) : deriveKey p q eIn auto crt = deriveExponents p q eIn auto crt := by
  have within : ¬ p * q > Config.maxModulus := Nat.not_lt.mpr fits
  rw [deriveKey, if_neg distinct, if_neg within]

/-! ### Step 4: the public exponent -/

/-- What step 4 asks of an exponent. -/
structure ExponentFits (phi e : Nat) : Prop where
  gt : 1 < e
  lt : e < phi
  coprime : Nat.gcd e phi = 1

theorem Searched.fits {phi e : Nat} (h : Searched phi e) : ExponentFits phi e := by
  obtain ⟨three, -, below, coprime⟩ := h
  exact ⟨by omega, below, coprime⟩

theorem chooseE_supplied {phi e : Nat} (fits : ExponentFits phi e) : chooseE e false phi = .ok e := by
  obtain ⟨gt, lt, coprime⟩ := fits
  simp [chooseE, Nat.not_le.mpr gt, Nat.not_le.mpr lt, coprime]

theorem chooseE_supplied_error {phi e : Nat} (bad : e ≤ 1 ∨ phi ≤ e ∨ Nat.gcd e phi ≠ 1) :
    chooseE e false phi = .error ⟨.invalidPublicExponent, 0⟩ := by
  rw [chooseE, if_neg Bool.false_ne_true, if_pos (by rwa [gcdFn_eq_gcd])]

theorem chooseE_searched {phi e : Nat} (eIn : Nat) (found : searchE phi = some e) : chooseE eIn true phi = .ok e := by
  simp [chooseE, found]

theorem chooseE_searched_error {phi : Nat} (eIn : Nat) (nothing : searchE phi = none) :
    chooseE eIn true phi = .error ⟨.noValidExponent, 0⟩ := by
  simp [chooseE, nothing]

/-- Step 4 chooses an exponent that fits, or raises the error of its command. -/
theorem chooseE_cases (eIn : Nat) (auto : Bool) (phi : Nat) :
    (∃ e, chooseE eIn auto phi = .ok e ∧ ExponentFits phi e) ∨
    (auto = false ∧ chooseE eIn auto phi = .error ⟨.invalidPublicExponent, 0⟩) ∨
    (auto = true ∧ chooseE eIn auto phi = .error ⟨.noValidExponent, 0⟩) := by
  cases auto with
  | false =>
    by_cases bad : eIn ≤ 1 ∨ phi ≤ eIn ∨ Nat.gcd eIn phi ≠ 1
    · exact .inr (.inl ⟨rfl, chooseE_supplied_error bad⟩)
    · have fits : ExponentFits phi eIn := ⟨by omega, by omega, by tauto⟩
      exact .inl ⟨eIn, chooseE_supplied fits, fits⟩
  | true =>
    cases found : searchE phi with
    | none => exact .inr (.inr ⟨rfl, chooseE_searched_error eIn found⟩)
    | some e => exact .inl ⟨e, chooseE_searched eIn found, (searchE_eq_some found).1.fits⟩

theorem fits_of_chooseE {eIn e phi : Nat} {auto : Bool} (chosen : chooseE eIn auto phi = .ok e) :
    ExponentFits phi e := by
  rcases chooseE_cases eIn auto phi with ⟨e', chosen', fits⟩ | ⟨-, error⟩ | ⟨-, error⟩
  · rwa [← Except.ok.inj (chosen'.symm.trans chosen)]
  · cases error.symm.trans chosen
  · cases error.symm.trans chosen

theorem deriveExponents_error {p q eIn : Nat} {auto : Bool} {r : Raised} (crt : Bool)
    (refused : chooseE eIn auto ((p - 1) * (q - 1)) = .error r) :
    deriveExponents p q eIn auto crt = .error r := by
  simp only [deriveExponents, refused]

/-! ### Step 5: the exponent's inverse -/

/-- An exponent that fits has its inverse, so what is left to fail is the CRT step. -/
theorem deriveExponents_eq {p q eIn e : Nat} {auto : Bool} (crt : Bool)
    (chosen : chooseE eIn auto ((p - 1) * (q - 1)) = .ok e) :
    ∃ d, d < (p - 1) * (q - 1) ∧ e * d % ((p - 1) * (q - 1)) = 1 ∧
      deriveExponents p q eIn auto crt = (chooseCrt p q d crt).map (makeKey p q e d) := by
  obtain ⟨gt, lt, coprime⟩ := fits_of_chooseE chosen
  obtain ⟨d, value, below, inverse⟩ := modinvFn_eq_some (by omega) coprime
  refine ⟨d, below, inverse.trans (Nat.mod_eq_of_lt (by omega)), ?_⟩
  simp only [deriveExponents, chosen, value]
  cases chooseCrt p q d crt <;> rfl

/-! ### Step 6: the CRT parameters -/

theorem crtParams_ok {p q : Nat} (d : Nat) (hp : 0 < p) (hq : 0 < q) (coprime : Nat.gcd p q = 1) :
    ∃ qinv pinv, crtParams p q d = .ok { dp := d % (p - 1), dq := d % (q - 1), qinv, pinv } ∧
      (qinv < p ∧ q * qinv % p = 1 % p) ∧ pinv < q ∧ p * pinv % q = 1 % q := by
  obtain ⟨qinv, ofQ, inverseQ⟩ := modinvFn_eq_some hp ((Nat.gcd_comm q p).trans coprime)
  obtain ⟨pinv, ofP, inverseP⟩ := modinvFn_eq_some hq coprime
  exact ⟨qinv, pinv, by simp only [crtParams, ofQ, ofP], inverseQ, inverseP⟩

theorem crtParams_error {p q : Nat} (d : Nat) (common : 1 < Nat.gcd p q) :
    crtParams p q d = .error ⟨.noInverse, 0⟩ := by
  have noInverse : modinvFn q p = none := modinvFn_eq_none (by rwa [Nat.gcd_comm])
  simp only [crtParams, noInverse]

/-! ### Step 7: the key -/

theorem toNat_u32 {n : Nat} (h : n < 2 ^ 32) : (u32 n).toNat = n := by
  rw [u32, BitVec.toNat_ofNat, Nat.mod_eq_of_lt h]

@[simp] theorem u32_toNat (v : Word) : u32 v.toNat = v := by
  simp [u32]

/-- The sizes step 7 relies on: with `p * q` a word, so are the primes and the totient. -/
theorem factors_lt {p q : Nat} (hp : 2 ≤ p) (hq : 2 ≤ q) (fits : p * q ≤ 2 ^ 32 - 1) :
    p < 2 ^ 32 ∧ q < 2 ^ 32 ∧ (p - 1) * (q - 1) < 2 ^ 32 := by
  have p_le : p * 1 ≤ p * q := Nat.mul_le_mul_left p (by omega)
  have q_le : 1 * q ≤ p * q := Nat.mul_le_mul_right q (by omega)
  have phi_le : (p - 1) * (q - 1) ≤ p * q := Nat.mul_le_mul (by omega) (by omega)
  omega

theorem makeKey_holds {p q e d : Nat} (c : CrtParams) (hp : 2 ≤ p) (hq : 2 ≤ q) (distinct : p ≠ q)
    (fits : p * q ≤ 2 ^ 32 - 1) (exponent : ExponentFits ((p - 1) * (q - 1)) e) (below : d < (p - 1) * (q - 1))
    (inverse : e * d % ((p - 1) * (q - 1)) = 1) : (makeKey p q e d c).Holds := by
  obtain ⟨gt, lt, coprime⟩ := exponent
  obtain ⟨wp, wq, wphi⟩ := factors_lt hp hq fits
  have np : (makeKey p q e d c).p.toNat = p := toNat_u32 wp
  have nq : (makeKey p q e d c).q.toNat = q := toNat_u32 wq
  have nn : (makeKey p q e d c).n.toNat = p * q := toNat_u32 (by omega)
  have nphi : (makeKey p q e d c).phi.toNat = (p - 1) * (q - 1) := toNat_u32 wphi
  have ne : (makeKey p q e d c).e.toNat = e := toNat_u32 (by omega)
  have nd : (makeKey p q e d c).d.toNat = d := toNat_u32 (by omega)
  have differ : (makeKey p q e d c).p ≠ (makeKey p q e d c).q := fun same =>
    distinct (np.symm.trans ((congrArg BitVec.toNat same).trans nq))
  constructor
  case distinct => exact differ
  all_goals simp only [np, nq, nn, nphi, ne, nd] <;> assumption

theorem makeKey_crtHolds {p q e d qinv pinv : Nat} (hp : 2 ≤ p) (hq : 2 ≤ q) (fits : p * q ≤ 2 ^ 32 - 1)
    (below : d < (p - 1) * (q - 1)) (inverseQ : qinv < p ∧ q * qinv % p = 1 % p)
    (inverseP : pinv < q ∧ p * pinv % q = 1 % q) :
    (makeKey p q e d { dp := d % (p - 1), dq := d % (q - 1), qinv, pinv }).CrtHolds := by
  obtain ⟨wp, wq, wphi⟩ := factors_lt hp hq fits
  have ndp := Nat.mod_lt d (show 0 < p - 1 by omega)
  have ndq := Nat.mod_lt d (show 0 < q - 1 by omega)
  obtain ⟨ltQ, inverseQ⟩ := inverseQ
  obtain ⟨ltP, inverseP⟩ := inverseP
  constructor <;> simp (disch := omega) only [makeKey, toNat_u32] <;> assumption

/-- What a derivation says of the key it returns: R25 (4), and (5) or the zeros of (3) as CRT was asked for or not. -/
def KeyFile.Meets (k : KeyFile) (crt : Bool) : Prop :=
  k.Holds ∧ (crt = true → k.CrtHolds) ∧ (crt = false → k.dp = 0 ∧ k.dq = 0 ∧ k.qinv = 0 ∧ k.pinv = 0)

theorem deriveKey_ok {p q eIn e : Nat} {auto crt : Bool} (hp : 2 ≤ p) (hq : 2 ≤ q) (distinct : p ≠ q)
    (fits : p * q ≤ 2 ^ 32 - 1) (chosen : chooseE eIn auto ((p - 1) * (q - 1)) = .ok e)
    (coprime : crt = true → Nat.gcd p q = 1) :
    ∃ k, deriveKey p q eIn auto crt = .ok k ∧ k.p = u32 p ∧ k.q = u32 q ∧ k.e = u32 e ∧ k.Meets crt := by
  obtain ⟨d, below, inverse, derived⟩ := deriveExponents_eq crt chosen
  have holds (c : CrtParams) : (makeKey p q e d c).Holds :=
    makeKey_holds c hp hq distinct fits (fits_of_chooseE chosen) below inverse
  rw [deriveKey_exponents eIn auto crt distinct fits, derived]
  cases crt with
  | false => exact ⟨_, rfl, rfl, rfl, rfl, holds _, nofun, fun _ => ⟨rfl, rfl, rfl, rfl⟩⟩
  | true =>
    obtain ⟨qinv, pinv, params, inverseQ, inverseP⟩ := crtParams_ok d (by omega) (by omega) (coprime rfl)
    rw [chooseCrt, if_pos rfl, params]
    exact ⟨_, rfl, rfl, rfl, rfl, holds _, fun _ => makeKey_crtHolds hp hq fits below inverseQ inverseP, nofun⟩

theorem deriveKey_noInverse {p q eIn e : Nat} {auto : Bool} (distinct : p ≠ q) (fits : p * q ≤ 2 ^ 32 - 1)
    (chosen : chooseE eIn auto ((p - 1) * (q - 1)) = .ok e) (common : 1 < Nat.gcd p q) :
    deriveKey p q eIn auto true = .error ⟨.noInverse, 0⟩ := by
  obtain ⟨d, -, -, derived⟩ := deriveExponents_eq true chosen
  rw [deriveKey_exponents eIn auto true distinct fits, derived, chooseCrt, if_pos rfl, crtParams_error d common]
  rfl

theorem deriveKey_refusedExponent {p q eIn : Nat} {auto : Bool} {r : Raised} (crt : Bool) (distinct : p ≠ q)
    (fits : p * q ≤ 2 ^ 32 - 1) (refused : chooseE eIn auto ((p - 1) * (q - 1)) = .error r) :
    deriveKey p q eIn auto crt = .error r := by
  rw [deriveKey_exponents eIn auto crt distinct fits, deriveExponents_error crt refused]

/-! ### The whole derivation -/

/-- What a derivation can answer: a key that meets R25, or one of the errors of R191, each with what it tells. -/
inductive Derived (p q : Nat) (auto crt : Bool) : Except Raised KeyFile → Prop where
  | key (k : KeyFile) : k.Meets crt → Derived p q auto crt (.ok k)
  | notPrime (info : BitVec 4) : info = 1 ∨ info = 2 → Derived p q auto crt (.error ⟨.notPrime, info⟩)
  | equalPrimes : Derived p q auto crt (.error ⟨.equalPrimes, 0⟩)
  | operandOverflow : Derived p q auto crt (.error ⟨.operandOverflow, 0⟩)
  | invalidPublicExponent : auto = false → Derived p q auto crt (.error ⟨.invalidPublicExponent, 0⟩)
  | noValidExponent : auto = true → Derived p q auto crt (.error ⟨.noValidExponent, 0⟩)
  | noInverse : crt = true → 1 < Nat.gcd p q → Derived p q auto crt (.error ⟨.noInverse, 0⟩)

theorem deriveKey_derived {p q : Nat} (eIn : Nat) (auto crt : Bool) (hp : 2 ≤ p) (hq : 2 ≤ q) :
    Derived p q auto crt (deriveKey p q eIn auto crt) := by
  by_cases distinct : p = q
  · rw [deriveKey_equal eIn auto crt distinct]
    exact .equalPrimes
  by_cases fits : p * q ≤ 2 ^ 32 - 1
  · rcases chooseE_cases eIn auto ((p - 1) * (q - 1)) with ⟨e, chosen, -⟩ | ⟨supplied, refused⟩ | ⟨searched, refused⟩
    · by_cases common : crt = true ∧ 1 < Nat.gcd p q
      · obtain ⟨rfl, common⟩ := common
        rw [deriveKey_noInverse distinct fits chosen common]
        exact .noInverse rfl common
      · have coprime (h : crt = true) : Nat.gcd p q = 1 := by
          have := Nat.gcd_pos_of_pos_left q (show 0 < p by omega)
          have : ¬ 1 < Nat.gcd p q := fun large => common ⟨h, large⟩
          omega
        obtain ⟨k, derived, -, -, -, meets⟩ := deriveKey_ok hp hq distinct fits chosen coprime
        rw [derived]
        exact .key k meets
    · rw [deriveKey_refusedExponent crt distinct fits refused]
      exact .invalidPublicExponent supplied
    · rw [deriveKey_refusedExponent crt distinct fits refused]
      exact .noValidExponent searched
  · rw [deriveKey_overflow eIn auto crt distinct (by omega)]
    exact .operandOverflow

/-- The inversion of `key_derive_fn`; without VAL it takes no draw. -/
theorem keyDeriveFn_derived (p q eIn : Nat) (auto val crt : Bool) (wc : Nat) (raw : Nat → Nat) :
    ∃ outcome used, keyDeriveFn p q eIn auto val crt wc raw = (outcome, used) ∧ Derived p q auto crt outcome ∧
      (val = false → used = 0) := by
  rcases primes_refused_or_accepted val p q wc raw with ⟨info, used, infos, draws, refused⟩ | ⟨used, accepted⟩
  · exact ⟨_, used, refused eIn auto crt, .notPrime info infos, draws⟩
  · obtain ⟨hp, hq⟩ := accepted.two_le
    exact ⟨_, used, keyDeriveFn_accepted accepted eIn auto crt, deriveKey_derived eIn auto crt hp hq,
      fun trusted => (trusted ▸ accepted).used_eq_zero⟩

end Sys2Proof.Machine
end

section
/-! The two key derivations, settled (43_key_derivation.md R191, R194, R195, R199). -/

namespace Sys2Proof.Machine

/-! ### Completion with a key or an error -/

theorem exec_keygen_ok {s : State} {p : Pending} {val crt : Bool} {k : KeyFile} {used : Nat} (rs1 rs2 rs3 : RegIdx)
    (pending : s.pend = some p) (accepted : PrimesAccepted val p.v1.toNat p.v2.toNat p.wc.toNat s.raw used)
    (derived : deriveKey p.v1.toNat p.v2.toNat p.v3.toNat false crt = .ok k) :
    exec (.keygen rs1 rs2 rs3 val crt) s = .next ((s.drew used).endedWithKey k crt) := by
  rw [exec_keygen rs1 rs2 rs3 pending (keyDeriveFn_accepted accepted _ _ _), derived, State.completeKey_ok]

theorem exec_keygena_ok {s : State} {p : Pending} {val crt : Bool} {k : KeyFile} {used : Nat} (rs1 rs2 : RegIdx)
    (pending : s.pend = some p) (accepted : PrimesAccepted val p.v1.toNat p.v2.toNat p.wc.toNat s.raw used)
    (derived : deriveKey p.v1.toNat p.v2.toNat 0 true crt = .ok k) :
    exec (.keygena rs1 rs2 val crt) s = .next ((s.drew used).endedWithKey k crt) := by
  rw [exec_keygena rs1 rs2 pending (keyDeriveFn_accepted accepted _ _ _), derived, State.completeKey_ok]

theorem exec_keygen_error {s : State} {p : Pending} {val crt : Bool} {r : Raised} {used : Nat} (rs1 rs2 rs3 : RegIdx)
    (pending : s.pend = some p) (accepted : PrimesAccepted val p.v1.toNat p.v2.toNat p.wc.toNat s.raw used)
    (refused : deriveKey p.v1.toNat p.v2.toNat p.v3.toNat false crt = .error r) :
    exec (.keygen rs1 rs2 rs3 val crt) s = .next ((s.drew used).endedCleared r.code r.info) := by
  rw [exec_keygen rs1 rs2 rs3 pending (keyDeriveFn_accepted accepted _ _ _), refused, State.completeKey_error]

theorem exec_keygena_error {s : State} {p : Pending} {val crt : Bool} {r : Raised} {used : Nat} (rs1 rs2 : RegIdx)
    (pending : s.pend = some p) (accepted : PrimesAccepted val p.v1.toNat p.v2.toNat p.wc.toNat s.raw used)
    (refused : deriveKey p.v1.toNat p.v2.toNat 0 true crt = .error r) :
    exec (.keygena rs1 rs2 val crt) s = .next ((s.drew used).endedCleared r.code r.info) := by
  rw [exec_keygena rs1 rs2 pending (keyDeriveFn_accepted accepted _ _ _), refused, State.completeKey_error]

/-- A refusal that does not look at the exponent ends both commands the same way. -/
theorem exec_refused {s : State} {p : Pending} {val crt : Bool} {r : Raised} {used : Nat} {i : Instr}
    {rs1 rs2 rs3 : RegIdx} (pending : s.pend = some p)
    (derivation : i = .keygen rs1 rs2 rs3 val crt ∨ i = .keygena rs1 rs2 val crt)
    (refused : ∀ eIn auto,
      keyDeriveFn p.v1.toNat p.v2.toNat eIn auto val crt p.wc.toNat s.raw = (.error r, used)) :
    exec i s = .next ((s.drew used).endedCleared r.code r.info) := by
  rcases derivation with rfl | rfl
  · rw [exec_keygen rs1 rs2 rs3 pending (refused _ _), State.completeKey_error]
  · rw [exec_keygena rs1 rs2 pending (refused _ _), State.completeKey_error]

/-! ### The statements -/

/-- Settles O26: the operator's exponent passes step 4, and every later step succeeds. -/
theorem keygenDerivesKey : Obligations.KeygenDerivesKey := by
  unfold Obligations.KeygenDerivesKey
  refine fun rs1 rs2 rs3 val crt => ⟨rfl, fun s p used pending accepted distinct fits gt lt coprime crtCoprime => ?_⟩
  obtain ⟨hp, hq⟩ := accepted.two_le
  obtain ⟨k, derived, kp, kq, ke, meets⟩ := deriveKey_ok hp hq (BitVec.toNat_ne.mp distinct) fits
    (chooseE_supplied ⟨gt, lt, coprime⟩) crtCoprime
  rw [u32_toNat] at kp kq ke
  exact ⟨k, exec_keygen_ok rs1 rs2 rs3 pending accepted derived, kp, kq, ke, meets⟩

/-- Settles O27: the search finds the exponent, a word because it lies below the totient. -/
theorem keygenaDerivesKey : Obligations.KeygenaDerivesKey := by
  unfold Obligations.KeygenaDerivesKey
  refine fun rs1 rs2 val crt => ⟨rfl, fun s p used e pending accepted distinct fits candidate least crtCoprime => ?_⟩
  obtain ⟨hp, hq⟩ := accepted.two_le
  have word : e < 2 ^ 32 := candidate.fits.lt.trans (factors_lt hp hq fits).2.2
  obtain ⟨k, derived, kp, kq, ke, meets⟩ := deriveKey_ok hp hq (BitVec.toNat_ne.mp distinct) fits
    (chooseE_searched 0 ((searchE_eq_some_iff _ e).mpr ⟨candidate, least⟩)) crtCoprime
  rw [u32_toNat] at kp kq
  exact ⟨k, exec_keygena_ok rs1 rs2 pending accepted derived, kp, kq, by rw [ke, toNat_u32 word], meets⟩

/-- Settles O28: step 1 raises before the exponent is looked at. -/
theorem refusedPrimesClearTheKey : Obligations.RefusedPrimesClearTheKey := by
  unfold Obligations.RefusedPrimesClearTheKey
  intro rs1 rs2 rs3 val crt s p i pending derivation
  refine ⟨?_, ?_, ?_, ?_⟩
  · rintro rfl small
    exact exec_refused pending derivation fun _ _ => keyDeriveFn_small_p _ _ _ small
  · rintro rfl hp small
    exact exec_refused pending derivation fun _ _ => keyDeriveFn_small_q _ _ _ hp small
  · rintro rfl used refuted
    exact exec_refused pending derivation fun _ _ => keyDeriveFn_refuted_p _ _ _ refuted
  · rintro rfl first used accepted refuted
    exact exec_refused pending derivation fun _ _ => keyDeriveFn_refuted_q _ _ _ accepted refuted

/-- Settles O29: each check in turn, the earlier ones having passed. -/
theorem laterChecksClearTheKey : Obligations.LaterChecksClearTheKey := by
  unfold Obligations.LaterChecksClearTheKey
  intro rs1 rs2 rs3 val crt s p used pending accepted
  have keygen {r : Raised} := exec_keygen_error (crt := crt) (r := r) rs1 rs2 rs3 pending accepted
  have keygena {r : Raised} := exec_keygena_error (crt := crt) (r := r) rs1 rs2 pending accepted
  refine ⟨fun equal => ?_, fun distinct overflow => ?_, fun distinct fits bad => ?_, fun distinct fits nothing => ?_,
    fun distinct fits crtAsked common => ⟨fun gt lt coprime => ?_, fun ⟨e, candidate⟩ => ?_⟩⟩
  · have equal' : p.v1.toNat = p.v2.toNat := by rw [equal]
    exact ⟨keygen (deriveKey_equal _ _ _ equal'), keygena (deriveKey_equal _ _ _ equal')⟩
  · have distinct' := BitVec.toNat_ne.mp distinct
    exact ⟨keygen (deriveKey_overflow _ _ _ distinct' overflow), keygena (deriveKey_overflow _ _ _ distinct' overflow)⟩
  · exact keygen (deriveKey_refusedExponent _ (BitVec.toNat_ne.mp distinct) fits (chooseE_supplied_error bad))
  · have notFound := (searchE_eq_none_iff _).mpr nothing
    exact keygena (deriveKey_refusedExponent _ (BitVec.toNat_ne.mp distinct) fits (chooseE_searched_error 0 notFound))
  · subst crtAsked
    exact keygen (deriveKey_noInverse (BitVec.toNat_ne.mp distinct) fits (chooseE_supplied ⟨gt, lt, coprime⟩) common)
  · subst crtAsked
    obtain ⟨found, search⟩ : ∃ e, searchE ((p.v1.toNat - 1) * (p.v2.toNat - 1)) = some e :=
      Option.ne_none_iff_exists'.mp fun nothing => (searchE_eq_none_iff _).mp nothing e candidate
    exact keygena (deriveKey_noInverse (BitVec.toNat_ne.mp distinct) fits (chooseE_searched 0 search) common)

end Sys2Proof.Machine
end

section
/-! How a completion ends, said once for all twelve commands (30_encoding.md R104, R105): which ends a command has, and
which parts of the state decide between them. `EndsIn` of the model's laws says less: neither the code of a report nor
the draws of a result. -/

namespace Sys2Proof.Machine

/-- The end of a completion, apart from the state it meets: a report alone, a result in the destination register, a
whole key, or a cleared key file; `used` counts the draws consumed. -/
inductive Ending where
  | report (code : ErrCode)
  | result (used value : Nat)
  | key (used : Nat) (k : KeyFile) (crt : Bool)
  | cleared (used : Nat) (code : ErrCode) (info : BitVec 4)

/-- The state a completion of `i` with this end leaves. -/
def Ending.state (i : Instr) (s : State) : Ending → State
  | .report code => s.ended code 0
  | .result used value => (s.drew used).endedWith i.fields.rd value
  | .key used k crt => (s.drew used).endedWithKey k crt
  | .cleared used code info => (s.drew used).endedCleared code info

/-- The ends a completion of `i` can have with the operands of `p`. -/
inductive Ends (i : Instr) (p : Pending) : Ending → Prop where
  | report (code : ErrCode) : i.derivesKey = false → i ≠ .clrkey → code ≠ .notPrime → i.mayReport code = true →
      Ends i p (.report code)
  | result (used value : Nat) : i.derivesKey = false → i ≠ .clrkey → i ≠ .nop → (i.draws = false → used = 0) →
      Ends i p (.result used value)
  | key (used : Nat) (k : KeyFile) : i.derivesKey = true → (i.draws = false → used = 0) → k.Meets i.fields.crt →
      Ends i p (.key used k i.fields.crt)
  | refused (used : Nat) (auto : Bool) (r : Raised) : i.derivesKey = true → (i.draws = false → used = 0) →
      i.mayReport r.code = true → Derived p.v1.toNat p.v2.toNat auto i.fields.crt (.error r) →
      Ends i p (.cleared used r.code r.info)
  | clrkey : i = .clrkey → Ends i p (.cleared 0 .ok 0)

/-- Two states that no completion of `i` can tell apart: the latch and the draws are the same, and for a cipher command
the key file and its validity are. -/
structure SameInputs (i : Instr) (s s' : State) : Prop where
  pend : s'.pend = s.pend
  raw : s'.raw = s.raw
  key : i.readsKey = true →
    s'.key = s.key ∧ s'.status.keyValid = s.status.keyValid ∧ s'.status.crtValid = s.status.crtValid

theorem SameInputs.refl (i : Instr) (s : State) : SameInputs i s s := ⟨rfl, rfl, fun _ => ⟨rfl, rfl, rfl⟩⟩

/-- The answer of a derivation is an end of its command; which codes it may raise depends on where its exponent comes
from. -/
theorem Ends.of_derived {i : Instr} {p : Pending} {auto : Bool} {outcome : Except Raised KeyFile} {used : Nat}
    (derives : i.derivesKey = true) (draws : i.draws = false → used = 0)
    (derived : Derived p.v1.toNat p.v2.toNat auto i.fields.crt outcome)
    (codes : ∀ r, Derived p.v1.toNat p.v2.toNat auto i.fields.crt (.error r) → i.mayReport r.code = true) :
    ∃ o, Ends i p o ∧ ∀ s : State, (s.drew used).completeKey i.fields.crt outcome = o.state i s := by
  cases outcome with
  | ok k =>
    cases derived with
    | key _ meets => exact ⟨_, .key used k derives draws meets, fun _ => rfl⟩
  | error r => exact ⟨_, .refused used auto r derives draws (codes r derived) derived, fun _ => rfl⟩

theorem mayReport_keygen {p q : Nat} {crt : Bool} {r : Raised} (rs1 rs2 rs3 : RegIdx) (val crt' : Bool)
    (derived : Derived p q false crt (.error r)) : (Instr.keygen rs1 rs2 rs3 val crt').mayReport r.code = true := by
  cases derived with
  | noValidExponent searched => cases searched
  | _ => rfl

theorem mayReport_keygena {p q : Nat} {crt : Bool} {r : Raised} (rs1 rs2 : RegIdx) (val crt' : Bool)
    (derived : Derived p q true crt (.error r)) : (Instr.keygena rs1 rs2 val crt').mayReport r.code = true := by
  cases derived with
  | invalidPublicExponent supplied => cases supplied
  | _ => rfl

/-- The two ends of a cipher command: a value, or NO_KEY. -/
theorem Ends.of_cipher {i : Instr} {p : Pending} (cipher : i.readsKey = true) (held : Bool) (v : Word) :
    ∃ o, Ends i p o ∧
      ∀ s : State, (if held then s.completeWrite i.fields.rd v else s.raise .noKey 0) = o.state i s := by
  have derives : i.derivesKey = false := by
    cases i with
    | keygen | keygena => cases cipher
    | _ => rfl
  have noKey : i.mayReport .noKey = true := by
    cases i with
    | encrypt | decrypt | deccrt => rfl
    | _ => cases cipher
  have notClrkey : i ≠ .clrkey := by rintro rfl; cases cipher
  have notNop : i ≠ .nop := by rintro rfl; cases cipher
  cases held with
  | false => exact ⟨_, .report .noKey derives notClrkey (by decide) noKey, fun _ => rfl⟩
  | true => exact ⟨_, .result 0 v.toNat derives notClrkey notNop fun _ => rfl, fun s => s.completeWrite_eq _ v⟩

/-- The two ends of MULMOD and MODPOW. -/
theorem Ends.of_modulus {i : Instr} {p : Pending} (derives : i.derivesKey = false) (notClrkey : i ≠ .clrkey)
    (notNop : i ≠ .nop) (zeroModulus : i.mayReport .zeroModulus = true) (zero : Prop) [Decidable zero] (v : Nat) :
    ∃ o, Ends i p o ∧
      ∀ s : State, (if zero then s.ended .zeroModulus 0 else s.endedWith i.fields.rd v) = o.state i s := by
  by_cases hz : zero
  · exact ⟨_, .report .zeroModulus derives notClrkey (by decide) zeroModulus, fun _ => if_pos hz⟩
  · exact ⟨_, .result 0 v derives notClrkey notNop fun _ => rfl, fun _ => if_neg hz⟩

/-- A completion has one of the ends of its command, and the same one from every state with the same inputs. -/
theorem exec_ending (i : Instr) {s : State} {p : Pending} (pending : s.pend = some p) :
    ∃ o, Ends i p o ∧ ∀ s', SameInputs i s s' → exec i s' = .next (o.state i s') := by
  have pending' {s' : State} (same : SameInputs i s s') : s'.pend = some p := same.pend.trans pending
  cases i with
  | nop => exact ⟨_, .report .ok rfl nofun (by decide) rfl, fun _ same => exec_nop (pending' same)⟩
  | gcd rd rs1 rs2 =>
    exact ⟨_, .result 0 _ rfl nofun nofun fun _ => rfl, fun _ same => exec_gcd rd rs1 rs2 (pending' same)⟩
  | mulmod rd rs1 rs2 rs3 =>
    obtain ⟨o, ends, state⟩ := Ends.of_modulus (i := .mulmod rd rs1 rs2 rs3) (p := p) rfl nofun nofun rfl (p.v3 = 0)
      (p.v1.toNat * p.v2.toNat % p.v3.toNat)
    exact ⟨o, ends, fun s' same => (exec_mulmod rd rs1 rs2 rs3 (pending' same)).trans (congrArg _ (state s'))⟩
  | modpow rd rs1 rs2 rs3 =>
    obtain ⟨o, ends, state⟩ := Ends.of_modulus (i := .modpow rd rs1 rs2 rs3) (p := p) rfl nofun nofun rfl (p.v3 = 0)
      (p.v1.toNat ^ p.v2.toNat % p.v3.toNat)
    exact ⟨o, ends, fun s' same => (exec_modpow rd rs1 rs2 rs3 (pending' same)).trans (congrArg _ (state s'))⟩
  | modinv rd rs1 rs2 =>
    by_cases zero : p.v2 = 0
    · exact ⟨_, .report .zeroModulus rfl nofun (by decide) rfl,
        fun _ same => exec_modinv_zeroModulus rd rs1 rs2 (pending' same) zero⟩
    cases value : modinvFn p.v1.toNat p.v2.toNat with
    | none => exact ⟨_, .report .noInverse rfl nofun (by decide) rfl,
        fun _ same => exec_modinv_noInverse rd rs1 rs2 (pending' same) zero value⟩
    | some d => exact ⟨_, .result 0 d rfl nofun nofun fun _ => rfl,
        fun _ same => exec_modinv_inverse rd rs1 rs2 (pending' same) zero value⟩
  | prime rd rs1 =>
    exact ⟨_, .result (fermatFn p.v1.toNat p.wc.toNat s.raw 0).2 _ rfl nofun nofun nofun,
      fun _ same => exec_prime rd rs1 (pending' same) (by rw [same.raw])⟩
  | keygen rs1 rs2 rs3 val crt =>
    obtain ⟨outcome, used, value, derived, draws⟩ :=
      keyDeriveFn_derived p.v1.toNat p.v2.toNat p.v3.toNat false val crt p.wc.toNat s.raw
    obtain ⟨o, ends, state⟩ := Ends.of_derived (i := .keygen rs1 rs2 rs3 val crt) rfl draws derived
      fun _ => mayReport_keygen rs1 rs2 rs3 val crt
    exact ⟨o, ends, fun s' same => (exec_keygen rs1 rs2 rs3 (pending' same) (by rw [same.raw, value])).trans
      (congrArg _ (state s'))⟩
  | keygena rs1 rs2 val crt =>
    obtain ⟨outcome, used, value, derived, draws⟩ :=
      keyDeriveFn_derived p.v1.toNat p.v2.toNat 0 true val crt p.wc.toNat s.raw
    obtain ⟨o, ends, state⟩ := Ends.of_derived (i := .keygena rs1 rs2 val crt) rfl draws derived
      fun _ => mayReport_keygena rs1 rs2 val crt
    exact ⟨o, ends, fun s' same => (exec_keygena rs1 rs2 (pending' same) (by rw [same.raw, value])).trans
      (congrArg _ (state s'))⟩
  | encrypt rd rs1 =>
    obtain ⟨o, ends, state⟩ := Ends.of_cipher (i := .encrypt rd rs1) (p := p) rfl s.status.keyValid
      (cipherValue (s.key.n == 0) p.v1 (modpowFn p.v1.toNat s.key.e.toNat s.key.n.toNat))
    refine ⟨o, ends, fun s' same => ?_⟩
    obtain ⟨key, keyValid, -⟩ := same.key rfl
    rw [exec, execEncrypt, completing_some (pending' same), key, keyValid]
    exact congrArg _ (state s')
  | decrypt rd rs1 =>
    obtain ⟨o, ends, state⟩ := Ends.of_cipher (i := .decrypt rd rs1) (p := p) rfl s.status.keyValid
      (cipherValue (s.key.n == 0) p.v1 (modpowFn p.v1.toNat s.key.d.toNat s.key.n.toNat))
    refine ⟨o, ends, fun s' same => ?_⟩
    obtain ⟨key, keyValid, -⟩ := same.key rfl
    rw [exec, execDecrypt, completing_some (pending' same), key, keyValid]
    exact congrArg _ (state s')
  | deccrt rd rs1 =>
    obtain ⟨o, ends, state⟩ := Ends.of_cipher (i := .deccrt rd rs1) (p := p) rfl s.status.crtValid
      (cipherValue (s.key.p == 0 || s.key.q == 0) p.v1
        (crtDecryptFn p.v1.toNat s.key.p.toNat s.key.q.toNat s.key.dp.toNat s.key.dq.toNat s.key.qinv.toNat))
    refine ⟨o, ends, fun s' same => ?_⟩
    obtain ⟨key, -, crtValid⟩ := same.key rfl
    rw [exec, execDeccrt, completing_some (pending' same), key, crtValid]
    exact congrArg _ (state s')
  | clrkey => exact ⟨_, .clrkey rfl, fun _ same => exec_clrkey (pending' same)⟩

theorem exec_next_ending {i : Instr} {s t : State} (answered : exec i s = .next t) :
    ∃ p o, s.pend = some p ∧ Ends i p o ∧ t = o.state i s := by
  obtain ⟨⟨p, pending⟩, -⟩ := exec_next answered
  obtain ⟨o, ends, state⟩ := exec_ending i pending
  exact ⟨p, o, pending, ends, Host.Outcome.next.inj (answered.symm.trans (state s (.refl i s)))⟩

/-! ### What every end has in common -/

section
variable (i : Instr) (s : State) (o : Ending)

@[simp] theorem Ending.state_ctrl : (o.state i s).ctrl = s.ctrl := by cases o <;> rfl
@[simp] theorem Ending.state_cmd : (o.state i s).cmd = s.cmd := by cases o <;> rfl
@[simp] theorem Ending.state_pend : (o.state i s).pend = none := by cases o <;> rfl
@[simp] theorem Ending.state_done : (o.state i s).status.done = true := by cases o <;> rfl
@[simp] theorem Ending.state_lastOpc : (o.state i s).status.lastOpc = s.status.lastOpc := by cases o <;> rfl
@[simp] theorem Ending.state_wrBusy : (o.state i s).status.wrBusy = s.status.wrBusy := by cases o <;> rfl
@[simp] theorem Ending.state_accErr : (o.state i s).status.accErr = s.status.accErr := by cases o <;> rfl
@[simp] theorem Ending.state_bus : (o.state i s).env.bus = s.env.bus := by cases o <;> rfl
@[simp] theorem Ending.state_resp : (o.state i s).env.resp = s.env.resp := by cases o <;> rfl
@[simp] theorem Ending.state_resetIn : (o.state i s).env.resetIn = s.env.resetIn := by cases o <;> rfl

end

theorem Ending.state_x_other (i : Instr) (s : State) (o : Ending) {r : RegIdx} (h : r ≠ i.fields.rd) :
    (o.state i s).x r = s.x r := by
  cases o with
  | result used value => exact (s.drew used).x_endedWith_other value h
  | _ => rfl

/-! ### What the ends of one command have in common -/

section
variable {i : Instr} {p : Pending} {o : Ending} (ends : Ends i p o) (s : State)
include ends

theorem Ends.g_eq (h : i.derivesKey = true ∨ i = .clrkey ∨ i = .nop) : (o.state i s).g = s.g := by
  cases ends with
  | result used value derives notClrkey notNop => simp [derives, notClrkey, notNop] at h
  | _ => rfl

theorem Ends.key_eq (derives : i.derivesKey = false) (notClrkey : i ≠ .clrkey) :
    (o.state i s).key = s.key ∧ (o.state i s).status.keyValid = s.status.keyValid ∧
      (o.state i s).status.crtValid = s.status.crtValid := by
  cases ends with
  | report => exact ⟨rfl, rfl, rfl⟩
  | result => exact ⟨rfl, rfl, rfl⟩
  | key used k derives' => simp [derives] at derives'
  | refused used auto r derives' => simp [derives] at derives'
  | clrkey clrkey => exact absurd clrkey notClrkey

theorem Ends.env_eq (draws : i.draws = false) : (o.state i s).env = s.env := by
  cases ends with
  | report => rfl
  | result used value _ _ _ none => rw [none draws]; rfl
  | key used k _ none => rw [none draws]; rfl
  | refused used auto r _ none => rw [none draws]; rfl
  | clrkey => rfl

theorem Ends.mayReport : i.mayReport (o.state i s).status.err = true := by
  cases ends with
  | report code _ _ _ listed => exact listed
  | refused used auto r _ _ listed => exact listed
  | _ => cases i <;> rfl

/-- ERR_INFO says which prime was refused, and nothing otherwise. -/
theorem Ends.errInfo :
    ((o.state i s).status.err = .notPrime →
      (o.state i s).status.errInfo = 1 ∨ (o.state i s).status.errInfo = 2) ∧
    ((o.state i s).status.err ≠ .notPrime → (o.state i s).status.errInfo = 0) := by
  cases ends with
  | report code _ _ other => exact ⟨fun same => absurd same other, fun _ => rfl⟩
  | refused used auto r _ _ _ derived =>
    cases derived with
    | notPrime info infos => exact ⟨fun _ => infos, fun other => absurd rfl other⟩
    | _ => exact ⟨nofun, fun _ => rfl⟩
  | _ => exact ⟨nofun, fun _ => rfl⟩

/-- A derivation's NO_INVERSE comes from the CRT step (R199). -/
theorem Ends.of_noInverse (derives : i.derivesKey = true) (code : (o.state i s).status.err = .noInverse) :
    i.fields.crt = true ∧ 1 < Nat.gcd p.v1.toNat p.v2.toNat := by
  cases ends with
  | report _ derives' => simp [derives] at derives'
  | result => cases code
  | key => cases code
  | refused used auto r _ _ _ derived =>
    cases derived with
    | noInverse crt common => exact ⟨crt, common⟩
    | _ => cases code
  | clrkey => cases code

end

end Sys2Proof.Machine
end

section
/-! All commands, settled (30_encoding.md §4, 60_exceptions.md R300, 43_key_derivation.md R199, 10_state.md R34). -/

namespace Sys2Proof.Machine

/-- Settles O30: an exponent that passed step 4 is coprime to `phi`, which is not 0. -/
theorem noInverseOnlyFromCrt : Obligations.NoInverseOnlyFromCrt := by
  unfold Obligations.NoInverseOnlyFromCrt
  constructor
  · intro p q eIn e auto chosen
    obtain ⟨gt, lt, coprime⟩ := fits_of_chooseE chosen
    rw [Ne, modinvFn_eq_none_iff (by omega), coprime]
    omega
  · intro s t p i pending derives answered code
    obtain ⟨p', o, pending', ends, rfl⟩ := exec_next_ending answered
    obtain rfl := Option.some.inj (pending.symm.trans pending')
    exact ends.of_noInverse s derives code

/-- Settles O39, part by part from what the ends of a completion have in common. -/
theorem completionFrame : Obligations.CompletionFrame := by
  unfold Obligations.CompletionFrame
  intro i s t answered
  obtain ⟨p, o, -, ends, rfl⟩ := exec_next_ending answered
  exact ⟨o.state_pend i s, o.state_done i s, o.state_ctrl i s, o.state_cmd i s, o.state_lastOpc i s,
    o.state_wrBusy i s, o.state_accErr i s, o.state_bus i s, o.state_resp i s, o.state_resetIn i s,
    fun _ => o.state_x_other i s, ends.g_eq s, ends.key_eq s, ends.env_eq s⟩

theorem ErrCode.code_le (c : ErrCode) : c.code.toNat ≤ 0x9 := by
  cases c <;> decide

/-- Settles O41: STATUS holds the code of the error as its bits 11:8, and a completion has an end of its command. -/
theorem errorCodesByCommand : Obligations.ErrorCodesByCommand := by
  unfold Obligations.ErrorCodesByCommand
  constructor
  · intro s
    have shown {c : ErrCode} (h : s.status.err = c) : s.statusWord.extractLsb' 8 4 = c.code := by
      rw [s.statusWord_err, h]
    exact ⟨shown, shown, shown, shown, shown, shown, shown, shown, shown, shown,
      by rw [s.statusWord_err]; exact ErrCode.code_le _⟩
  · intro i s t answered
    obtain ⟨p, o, -, ends, rfl⟩ := exec_next_ending answered
    exact ⟨ends.mayReport s, ends.errInfo s⟩

/-- Settles O46: the two states have the same inputs, so both completions have one end, and no end writes a register or
report that depends on the key file or STATUS. -/
theorem onlyCipherReadsKeyAndFlags : Obligations.OnlyCipherReadsKeyAndFlags := by
  unfold Obligations.OnlyCipherReadsKeyAndFlags
  intro i s t u k st noCipher answered answered'
  obtain ⟨⟨p, pending⟩, -⟩ := exec_next answered
  obtain ⟨o, ends, state⟩ := exec_ending i pending
  have same : SameInputs i s { s with key := k, status := st } := ⟨rfl, rfl, fun cipher => by simp [noCipher] at cipher⟩
  obtain rfl := Host.Outcome.next.inj ((state s (.refl i s)).symm.trans answered)
  obtain rfl := Host.Outcome.next.inj ((state _ same).symm.trans answered')
  cases ends with
  | report _ derives => exact ⟨rfl, rfl, rfl, rfl, fun derives' => by simp [derives] at derives'⟩
  | result _ _ derives => exact ⟨rfl, rfl, rfl, rfl, fun derives' => by simp [derives] at derives'⟩
  | key => exact ⟨rfl, rfl, rfl, rfl, fun _ => ⟨rfl, rfl, rfl⟩⟩
  | refused => exact ⟨rfl, rfl, rfl, rfl, fun _ => ⟨rfl, rfl, rfl⟩⟩
  | clrkey => exact ⟨rfl, rfl, rfl, rfl, fun _ => ⟨rfl, rfl, rfl⟩⟩

end Sys2Proof.Machine
end

section
/-! What a host access does, said once (20_memory.md R62 to R64, R344): the state it leaves but for the response,
whether it is a soft reset, and whether it keeps the host's duties. Then what a turn of the sequencer and a step do. -/

namespace Sys2Proof.Machine

/-! ### Issue -/

/-- What an issue leaves alone, whether or not the word is legal. -/
theorem issue_frame (w : Word) (s : State) : ∃ pend status, issue w s = { s with cmd := w, pend, status } ∧
    status.keyValid = s.status.keyValid ∧ status.crtValid = s.status.crtValid ∧
    status.wrBusy = s.status.wrBusy ∧ status.accErr = s.status.accErr := by
  cases decoded : decode w with
  | none => exact ⟨_, _, issue_illegal decoded, rfl, rfl, rfl, rfl⟩
  | some i => exact ⟨_, _, issue_legal decoded, rfl, rfl, rfl, rfl⟩

/-! ### Accesses -/

/-- What a host access `e` makes of the state, the response apart. -/
inductive Accessed (s : State) (e : Event) : State → Prop where
  | answered : e.isSoftReset = false → e.dutiful s = true → Accessed s e s
  | refused : e.isSoftReset = false → e.dutiful s = false → Accessed s e s.flagAccess
  | dropped : e.isSoftReset = false → e.dutiful s = false → Accessed s e s.flagBusyWrite
  | softReset : e.isSoftReset = true → e.dutiful s = true → Accessed s e s.resetRegs
  | config (c : Ctrl) : e.isSoftReset = false → e.dutiful s = true → Accessed s e { s with ctrl := c }
  | cleared (v : Word) : e.isSoftReset = false → e.dutiful s = true →
      Accessed s e { s with status := s.status.clearW1C v }
  | issued (w : Word) : s.pend = none → e.isSoftReset = false → e.dutiful s = true → Accessed s e (issue w s)
  | wrote (i : RegIdx) (v : Word) : s.pend = none → e.isSoftReset = false → e.dutiful s = true →
      Accessed s e (s.setX i v)

theorem hostRead_accessed (off : BitVec 8) (size : Nat) (s : State) :
    ∃ u r, hostRead off size s = u.respond r ∧ Accessed s (.read off size) u := by
  cases ha : accessAt off size with
  | none => exact ⟨_, _, hostRead_refused ha, .refused rfl (by simp [Event.dutiful, ha])⟩
  | some r => exact ⟨_, _, hostRead_mapped ha, .answered rfl (by simp [Event.dutiful, ha])⟩

theorem hostWrite_accessed (off : BitVec 8) (size : Nat) (v : Word) (s : State) :
    ∃ u r, hostWrite off size v s = u.respond r ∧ Accessed s (.write off size v) u := by
  cases ha : accessAt off size with
  | none => exact ⟨_, _, hostWrite_refused ha, .refused (by simp [Event.isSoftReset, ha]) (by simp [Event.dutiful, ha])⟩
  | some r =>
    refine ⟨_, _, hostWrite_mapped ha, ?_⟩
    cases r with
    | id | version | key =>
      exact .refused (by simp [Event.isSoftReset, ha]) (by simp [Event.dutiful, ha])
    | ctrl =>
      cases srst : v.getLsbD 1 with
      | true =>
        rw [writeReg_ctrl_softReset s srst]
        exact .softReset (by simp [Event.isSoftReset, ha, srst]) (by simp [Event.dutiful, ha])
      | false =>
        rw [writeReg_ctrl_config s srst]
        exact .config _ (by simp only [Event.isSoftReset, srst, Bool.and_false]) (by simp [Event.dutiful, ha])
    | status => exact .cleared v (by simp [Event.isSoftReset, ha]) (by simp [Event.dutiful, ha])
    | cmd =>
      by_cases idle : s.pend = none
      · rw [writeReg_cmd_idle v idle]
        exact .issued v idle (by simp [Event.isSoftReset, ha]) (by simp [Event.dutiful, ha, State.busy, idle])
      · rw [writeReg_cmd_pending v idle]
        exact .dropped (by simp [Event.isSoftReset, ha])
          (by simp [Event.dutiful, ha, State.busy, Option.isSome_iff_ne_none.mpr idle])
    | g i =>
      by_cases idle : s.pend = none
      · rw [writeReg_g_idle i v idle]
        exact .wrote i v idle (by simp [Event.isSoftReset, ha]) (by simp [Event.dutiful, ha, State.busy, idle])
      · rw [writeReg_g_pending i v idle]
        exact .dropped (by simp [Event.isSoftReset, ha])
          (by simp [Event.dutiful, ha, State.busy, Option.isSome_iff_ne_none.mpr idle])

theorem stepEvent_access {e : Event} {s : State} (access : e.isAccess = true) (released : s.env.resetIn = false) :
    ∃ u r, stepEvent e s = .next (u.respond r) ∧ Accessed s e u := by
  cases e with
  | read off size =>
    obtain ⟨u, r, answered, accessed⟩ := hostRead_accessed off size s
    exact ⟨u, r, by simp [stepEvent, hostStep, released, answered], accessed⟩
  | write off size v =>
    obtain ⟨u, r, answered, accessed⟩ := hostWrite_accessed off size v s
    exact ⟨u, r, by simp [stepEvent, hostStep, released, answered], accessed⟩
  | _ => cases access

theorem stepEvent_access_in_reset {e : Event} {s : State} (access : e.isAccess = true)
    (asserted : s.env.resetIn = true) : stepEvent e s = .fault .accessDuringReset := by
  cases e with
  | read | write => simp [stepEvent, hostStep, asserted]
  | _ => cases access

theorem stepEvent_access_next {e : Event} {s t : State} (access : e.isAccess = true)
    (answered : stepEvent e s = .next t) :
    s.env.resetIn = false ∧ ∃ u r, t = u.respond r ∧ Accessed s e u := by
  cases released : s.env.resetIn with
  | true => cases (stepEvent_access_in_reset access released).symm.trans answered
  | false =>
    obtain ⟨u, r, value, accessed⟩ := stepEvent_access access released
    exact ⟨rfl, u, r, Host.Outcome.next.inj (answered.symm.trans value), accessed⟩

/-! ### What accesses have in common -/

section
variable {s u : State} {e : Event} (accessed : Accessed s e u)
include accessed

theorem Accessed.env_eq : u.env = s.env := by
  cases accessed with
  | issued w =>
    obtain ⟨pend, status, issued, -⟩ := issue_frame w s
    rw [issued]
  | _ => rfl

/-- No access but a soft reset touches the key file or its validity (R24). -/
theorem Accessed.key_eq (soft : e.isSoftReset = false) :
    u.key = s.key ∧ u.status.keyValid = s.status.keyValid ∧ u.status.crtValid = s.status.crtValid := by
  cases accessed with
  | softReset soft' => simp [soft] at soft'
  | issued w =>
    obtain ⟨pend, status, issued, keyValid, crtValid, -⟩ := issue_frame w s
    rw [issued]
    exact ⟨rfl, keyValid, crtValid⟩
  | _ => exact ⟨rfl, rfl, rfl⟩

/-- No access but a soft reset touches an issued command, or a register it could read (R344). -/
theorem Accessed.pending_eq {p : Pending} (pending : s.pend = some p) (soft : e.isSoftReset = false) :
    u.pend = some p ∧ u.g = s.g ∧ u.cmd = s.cmd := by
  cases accessed with
  | softReset soft' => simp [soft] at soft'
  | issued w idle => simp [pending] at idle
  | wrote i v idle => simp [pending] at idle
  | _ => exact ⟨pending, rfl, rfl⟩

/-- A dutiful access raises no flag (R353). -/
theorem Accessed.flags_of_dutiful (dutiful : e.dutiful s = true) :
    (u.status.wrBusy = true → s.status.wrBusy = true) ∧ (u.status.accErr = true → s.status.accErr = true) := by
  cases accessed with
  | answered => exact ⟨id, id⟩
  | refused _ broken => simp [dutiful] at broken
  | dropped _ broken => simp [dutiful] at broken
  | softReset => exact ⟨nofun, nofun⟩
  | config => exact ⟨id, id⟩
  | cleared v => exact ⟨Bool.and_elim_left, Bool.and_elim_left⟩
  | issued w =>
    obtain ⟨pend, status, issued, -, -, wrBusy, accErr⟩ := issue_frame w s
    rw [issued]
    exact ⟨wrBusy.symm.trans, accErr.symm.trans⟩
  | wrote => exact ⟨id, id⟩

/-- An access that breaks the duties raises one of the two flags and does nothing else. -/
theorem Accessed.eq_of_not_dutiful (broken : e.dutiful s = false) : u = s.flagAccess ∨ u = s.flagBusyWrite := by
  cases accessed with
  | refused => exact .inl rfl
  | dropped => exact .inr rfl
  | _ => simp_all

theorem Accessed.eq_resetRegs (soft : e.isSoftReset = true) : u = s.resetRegs := by
  cases accessed with
  | softReset => rfl
  | _ => simp_all

end

/-! ### The sequencer's turn and the end of a step -/

theorem completion_idle {s : State} (idle : s.pend = none) : completion s = .next s := by
  simp [completion, State.ready, idle]

theorem completion_in_reset {s : State} (asserted : s.env.resetIn = true) : completion s = .next s := by
  simp [completion, State.ready, asserted]

theorem completion_pending {s : State} {p : Pending} (released : s.env.resetIn = false) (pending : s.pend = some p) :
    completion s = exec p.instr s := by
  simp [completion, State.ready, released, pending]

/-- A turn leaves everything as it is, or ends the pending command. -/
theorem completion_ending (s : State) :
    completion s = .next s ∧ s.ready = none ∨
    ∃ p o, s.ready = some p ∧ s.env.resetIn = false ∧ Ends p.instr p o ∧
      completion s = .next (o.state p.instr s) := by
  cases ready : s.ready with
  | none => exact .inl ⟨by simp [completion, ready], rfl⟩
  | some p =>
    obtain ⟨released, pending⟩ := State.ready_some ready
    obtain ⟨o, ends, state⟩ := exec_ending p.instr pending
    exact .inr ⟨p, o, rfl, released, ends, (completion_pending released pending).trans (state s (.refl _ s))⟩

/-- A turn out of reset leaves the engine idle and the rest of the environment's events to come. -/
theorem completion_released {s : State} (released : s.env.resetIn = false) :
    ∃ t, completion s = .next t ∧ t.pend = none ∧ t.env.bus = s.env.bus ∧ t.env.resetIn = false := by
  rcases completion_ending s with ⟨idle, ready⟩ | ⟨p, o, -, -, -, ended⟩
  · exact ⟨s, idle, by simpa [State.ready, released] using ready, rfl, released⟩
  · exact ⟨_, ended, o.state_pend _ s, o.state_bus _ s, (o.state_resetIn _ s).trans released⟩

theorem step_of_empty {s : State} (empty : s.env.bus = []) : step s = completion s := by
  rw [step, empty]

theorem step_of_event {s : State} {e : Event} {rest : List Event} (bus : s.env.bus = e :: rest) :
    step s = stepEvent e (s.withBus rest) := by
  rw [step, bus]

/-- Only an access in reset stops (R342). -/
theorem stepEvent_next {e : Event} {s : State} (h : e.isAccess = true → s.env.resetIn = false) :
    ∃ t, stepEvent e s = .next t := by
  cases access : e.isAccess with
  | true =>
    obtain ⟨u, r, answered, -⟩ := stepEvent_access access (h access)
    exact ⟨_, answered⟩
  | false =>
    cases e with
    | read | write => cases access
    | engine =>
      rcases completion_ending s with ⟨idle, -⟩ | ⟨p, o, -, -, -, ended⟩
      · exact ⟨_, idle⟩
      · exact ⟨_, ended⟩
    | assertReset => exact ⟨_, rfl⟩
    | releaseReset => exact ⟨_, rfl⟩

end Sys2Proof.Machine
end

section
/-! The invariants, settled (10_state.md R25, R28, R30, R32; 70_reset_and_hazards.md R340, R342). -/

namespace Sys2Proof.Machine

/-! ### The key-file invariants -/

/-- The invariants speak of the key file and its two validity flags only. -/
theorem State.KeyInv.congr {s t : State} (inv : s.KeyInv)
    (same : t.key = s.key ∧ t.status.keyValid = s.status.keyValid ∧ t.status.crtValid = s.status.crtValid) :
    t.KeyInv := by
  obtain ⟨empty, crt_key, no_crt, holds, crt_holds⟩ := inv
  obtain ⟨key, keyValid, crtValid⟩ := same
  rw [← key, ← keyValid] at empty
  rw [← keyValid, ← crtValid] at crt_key
  rw [← key, ← keyValid, ← crtValid] at no_crt
  rw [← key, ← keyValid] at holds
  rw [← key, ← crtValid] at crt_holds
  exact ⟨empty, crt_key, no_crt, holds, crt_holds⟩

theorem keyInv_of_cleared {s : State} (key : s.key = KeyFile.zero) (keyValid : s.status.keyValid = false)
    (crtValid : s.status.crtValid = false) : s.KeyInv := by
  constructor <;> simp [key, keyValid, crtValid]

theorem keyInv_of_meets {s : State} {crt : Bool} (meets : s.key.Meets crt) (keyValid : s.status.keyValid = true)
    (crtValid : s.status.crtValid = crt) : s.KeyInv := by
  obtain ⟨holds, crtHolds, zeros⟩ := meets
  exact ⟨by simp [keyValid], fun _ => keyValid, fun _ noCrt => zeros (crtValid.symm.trans noCrt), fun _ => holds,
    fun valid => crtHolds (crtValid.symm.trans valid)⟩

theorem keyInv_ending {i : Instr} {p : Pending} {o : Ending} {s : State} (ends : Ends i p o) (inv : s.KeyInv) :
    (o.state i s).KeyInv := by
  cases ends with
  | report => exact inv.congr ⟨rfl, rfl, rfl⟩
  | result => exact inv.congr ⟨rfl, rfl, rfl⟩
  | key used k _ _ meets => exact keyInv_of_meets meets rfl rfl
  | refused => exact keyInv_of_cleared rfl rfl rfl
  | clrkey => exact keyInv_of_cleared rfl rfl rfl

theorem keyInv_accessed {s u : State} {e : Event} (accessed : Accessed s e u) (inv : s.KeyInv) : u.KeyInv := by
  cases soft : e.isSoftReset with
  | false => exact inv.congr (accessed.key_eq soft)
  | true =>
    obtain rfl := accessed.eq_resetRegs soft
    exact keyInv_of_cleared rfl rfl rfl

theorem keyInv_completion {s t : State} (inv : s.KeyInv) (answered : completion s = .next t) : t.KeyInv := by
  rcases completion_ending s with ⟨unchanged, -⟩ | ⟨p, o, -, -, ends, ended⟩
  · obtain rfl := Host.Outcome.next.inj (unchanged.symm.trans answered)
    exact inv
  · obtain rfl := Host.Outcome.next.inj (ended.symm.trans answered)
    exact keyInv_ending ends inv

theorem keyInv_stepEvent {e : Event} {s t : State} (inv : s.KeyInv) (answered : stepEvent e s = .next t) :
    t.KeyInv := by
  cases e with
  | read | write =>
    obtain ⟨-, u, r, rfl, accessed⟩ := stepEvent_access_next rfl answered
    exact (keyInv_accessed accessed inv).congr ⟨rfl, rfl, rfl⟩
  | engine => exact keyInv_completion inv answered
  | assertReset =>
    obtain rfl := Host.Outcome.next.inj answered
    exact keyInv_of_cleared rfl rfl rfl
  | releaseReset =>
    obtain rfl := Host.Outcome.next.inj answered
    exact inv.congr ⟨rfl, rfl, rfl⟩

/-- A property that no event list disturbs and that every event keeps is kept by every step. -/
theorem step_keeps {P : State → Prop} (bus : ∀ s rest, P s → P (s.withBus rest))
    (turn : ∀ s t, P s → completion s = .next t → P t) (event : ∀ e s t, P s → stepEvent e s = .next t → P t)
    {s t : State} (holds : P s) (answered : step s = .next t) : P t := by
  cases hb : s.env.bus with
  | nil => exact turn s t holds ((step_of_empty hb).symm.trans answered)
  | cons e rest => exact event e _ t (bus s rest holds) ((step_of_event hb).symm.trans answered)

/-- Settles O43: reset and a failed derivation empty the key file, a successful one writes a key that meets R25, and
nothing else touches it. -/
theorem stepKeepsKeyInvariants : Obligations.StepKeepsKeyInvariants := by
  unfold Obligations.StepKeepsKeyInvariants
  exact ⟨keyInv_of_cleared rfl rfl rfl, fun _ _ => step_keeps (fun _ _ inv => inv.congr ⟨rfl, rfl, rfl⟩)
    (fun _ _ => keyInv_completion) (fun _ _ _ => keyInv_stepEvent)⟩

/-! ### The control invariants -/

theorem State.reset_lastOpc : State.reset.status.lastOpc = State.reset.cmd.extractLsb' 0 6 := by decide

/-- The control invariants of a machine whose registers have their reset values, whatever its environment. -/
theorem controlInv_reset (env : Env) : State.ControlInv { State.reset with env } :=
  ⟨nofun, State.reset_lastOpc, fun _ => rfl, nofun, fun _ => rfl⟩

/-- Out of reset the invariants speak of the latch, CMD, the general registers and the report only; DONE may fall. -/
theorem State.ControlInv.congr {s t : State} (inv : s.ControlInv) (released : t.env.resetIn = false)
    (pend : t.pend = s.pend) (g : t.g = s.g) (cmd : t.cmd = s.cmd) (lastOpc : t.status.lastOpc = s.status.lastOpc)
    (err : t.status.err = s.status.err) (errInfo : t.status.errInfo = s.status.errInfo)
    (done : s.status.done = false → t.status.done = false) : t.ControlInv := by
  obtain ⟨latch, last_opc, info_other, info_prime, -⟩ := inv
  refine ⟨fun p pending => ?_, by rw [lastOpc, cmd, last_opc], by rwa [err, errInfo], by rwa [err, errInfo],
    fun asserted => by simp [released] at asserted⟩
  obtain ⟨decoded, v1, v2, v3, not_done, err_ok, info_zero⟩ := latch p (pend ▸ pending)
  exact ⟨by rw [cmd, decoded], by rw [State.x_congr g, v1], by rw [State.x_congr g, v2], by rw [State.x_congr g, v3],
    done not_done, by rw [err, err_ok], by rw [errInfo, info_zero]⟩

/-- With nothing pending and out of reset only LAST_OPC and ERR_INFO are left to look at. -/
theorem controlInv_of_idle {s : State} (idle : s.pend = none) (released : s.env.resetIn = false)
    (lastOpc : s.status.lastOpc = s.cmd.extractLsb' 0 6) (other : s.status.err ≠ .notPrime → s.status.errInfo = 0)
    (prime : s.status.err = .notPrime → s.status.errInfo = 1 ∨ s.status.errInfo = 2) : s.ControlInv :=
  ⟨fun p pending => by simp [idle] at pending, lastOpc, other, prime, fun asserted => by simp [released] at asserted⟩

theorem controlInv_issue {s : State} (w : Word) (idle : s.pend = none) (released : s.env.resetIn = false) :
    (issue w s).ControlInv := by
  cases decoded : decode w with
  | none =>
    rw [issue_illegal decoded]
    exact controlInv_of_idle idle released rfl (fun _ => rfl) nofun
  | some i =>
    rw [issue_legal decoded]
    refine ⟨fun p pending => ?_, rfl, fun _ => rfl, nofun, fun asserted => by simp [released] at asserted⟩
    obtain rfl := Option.some.inj pending
    exact ⟨decoded, rfl, rfl, rfl, rfl, rfl, rfl⟩

theorem controlInv_accessed {s u : State} {e : Event} (accessed : Accessed s e u) (released : s.env.resetIn = false)
    (inv : s.ControlInv) : u.ControlInv := by
  cases accessed with
  | answered => exact inv
  | refused => exact inv.congr released rfl rfl rfl rfl rfl rfl id
  | dropped => exact inv.congr released rfl rfl rfl rfl rfl rfl id
  | softReset => exact controlInv_reset s.env
  | config => exact inv.congr released rfl rfl rfl rfl rfl rfl id
  | cleared v =>
    refine inv.congr released rfl rfl rfl rfl rfl rfl fun low => ?_
    simp [Status.clearW1C, low]
  | issued w idle => exact controlInv_issue w idle released
  | wrote i v idle => exact controlInv_of_idle idle released inv.last_opc inv.info_other inv.info_prime

theorem controlInv_completion {s t : State} (inv : s.ControlInv) (answered : completion s = .next t) :
    t.ControlInv := by
  rcases completion_ending s with ⟨unchanged, -⟩ | ⟨p, o, -, released, ends, ended⟩
  · obtain rfl := Host.Outcome.next.inj (unchanged.symm.trans answered)
    exact inv
  · obtain rfl := Host.Outcome.next.inj (ended.symm.trans answered)
    obtain ⟨prime, other⟩ := ends.errInfo s
    exact controlInv_of_idle (o.state_pend _ s) ((o.state_resetIn _ s).trans released)
      (by rw [o.state_lastOpc, o.state_cmd, inv.last_opc]) other prime

theorem controlInv_stepEvent {e : Event} {s t : State} (inv : s.ControlInv) (answered : stepEvent e s = .next t) :
    t.ControlInv := by
  cases e with
  | read | write =>
    obtain ⟨released, u, r, rfl, accessed⟩ := stepEvent_access_next rfl answered
    have released' : u.env.resetIn = false := by rw [accessed.env_eq, released]
    exact (controlInv_accessed accessed released inv).congr released' rfl rfl rfl rfl rfl rfl id
  | engine => exact controlInv_completion inv answered
  | assertReset =>
    obtain rfl := Host.Outcome.next.inj answered
    exact controlInv_reset _
  | releaseReset =>
    obtain rfl := Host.Outcome.next.inj answered
    exact inv.congr rfl rfl rfl rfl rfl rfl rfl id

/-- The event list is no register. -/
theorem State.ControlInv.withBus {s : State} (inv : s.ControlInv) (rest : List Event) :
    (s.withBus rest).ControlInv := by
  cases asserted : s.env.resetIn with
  | false => exact inv.congr asserted rfl rfl rfl rfl rfl rfl id
  | true =>
    rw [inv.in_reset asserted]
    exact controlInv_reset _

/-- Settles O44: the reset state is the one the invariants allow while the reset input is asserted. -/
theorem resetMeetsControlInvariants : Obligations.ResetMeetsControlInvariants := by
  unfold Obligations.ResetMeetsControlInvariants
  exact controlInv_reset _

/-- Settles O45, event by event. -/
theorem stepKeepsControlInvariants : Obligations.StepKeepsControlInvariants := by
  unfold Obligations.StepKeepsControlInvariants
  exact fun _ _ => step_keeps (fun _ rest inv => inv.withBus rest) (fun _ _ => controlInv_completion)
    (fun _ _ _ => controlInv_stepEvent)

end Sys2Proof.Machine
end

section
/-! What a step answers, settled (30_encoding.md §4, 70_reset_and_hazards.md §1, §3 to §5, 10_state.md R24). -/

namespace Sys2Proof.Machine

/-! ### Where the machine stops -/

/-- Settles O8: the head of the event list decides, and with no event the sequencer's turn always answers. -/
theorem stepStopsOnlyInReset : Obligations.StepStopsOnlyInReset := by
  unfold Obligations.StepStopsOnlyInReset
  intro s
  cases hb : s.env.bus with
  | nil =>
    refine ⟨fun meets => by simp [State.accessMeetsReset, hb] at meets, fun _ => ?_⟩
    rw [step_of_empty hb]
    exact stepEvent_next (e := .engine) nofun
  | cons e rest =>
    rw [step_of_event hb]
    have meets_iff : s.accessMeetsReset = (s.env.resetIn && e.isAccess) := by rw [State.accessMeetsReset, hb]
    constructor
    · intro meets
      obtain ⟨asserted, access⟩ := Bool.and_eq_true_iff.mp (meets_iff.symm.trans meets)
      exact stepEvent_access_in_reset access asserted
    · intro misses
      refine stepEvent_next fun access => ?_
      rwa [meets_iff, access, Bool.and_true] at misses

/-- Settles O53: neither the sequencer nor the host has a step in reset, and the release is one field. -/
theorem resetInputHoldsTheEngine : Obligations.ResetInputHoldsTheEngine := by
  unfold Obligations.ResetInputHoldsTheEngine
  exact fun s => ⟨fun asserted => ⟨completion_in_reset asserted, fun _ access =>
    stepEvent_access_in_reset access asserted⟩, rfl⟩

theorem registersReset (env : Env) : State.RegistersReset { State.reset with env } :=
  ⟨State.x_reset, rfl, rfl, rfl, rfl, rfl⟩

theorem isAccess_of_isSoftReset {e : Event} (soft : e.isSoftReset = true) : e.isAccess = true := by
  cases e with
  | read | write => rfl
  | _ => cases soft

theorem hostWrite_softReset {off : BitVec 8} {size : Nat} {v : Word} (s : State)
    (soft : (Event.write off size v).isSoftReset = true) :
    hostWrite off size v s = s.resetRegs.respond (.write false) := by
  simp only [Event.isSoftReset, Bool.and_eq_true, beq_iff_eq] at soft
  obtain ⟨ctrl, srst⟩ := soft
  rw [hostWrite_mapped ctrl, writeReg_ctrl_softReset s srst]

/-- Settles O52: both resets put the reset state's registers under the environment there was. -/
theorem bothResetsClearEverything : Obligations.BothResetsClearEverything := by
  unfold Obligations.BothResetsClearEverything
  refine fun s => ⟨⟨_, _, rfl, registersReset _, rfl, rfl, rfl, registersReset _, rfl⟩,
    fun released e soft => ?_⟩
  cases e with
  | write off size v =>
    refine ⟨s.resetRegs.respond (.write false), ?_, registersReset _, rfl, rfl, rfl⟩
    simp [stepEvent, hostStep, released, hostWrite_softReset s soft]
  | _ => cases soft

/-! ### The step runs the pending command -/

theorem step_engine {s : State} {p : Pending} {rest : List Event} (released : s.env.resetIn = false)
    (pending : s.pend = some p) (bus : s.env.bus = .engine :: rest) : step s = exec p.instr (s.withBus rest) := by
  rw [step_of_event bus]
  exact completion_pending released pending

/-- The host's CMD write issues the word. -/
theorem step_issue {s : State} {w : Word} {rest : List Event} (released : s.env.resetIn = false) (idle : s.pend = none)
    (bus : s.env.bus = .write 0x10 4 w :: rest) :
    step s = .next ((issue w (s.withBus rest)).respond (.write false)) := by
  have written : hostWrite 0x10 4 w (s.withBus rest) = (issue w (s.withBus rest)).respond (.write false) :=
    hostWrite_ok (r := .cmd) (writeReg_cmd_idle w idle)
  rw [step_of_event bus, stepEvent, hostStep, written]
  simp [released]

/-- Settles O7: a turn is `exec` of the pending command, which an issued or a placed word has become. -/
theorem stepRunsDecodedCommand : Obligations.StepRunsDecodedCommand := by
  unfold Obligations.StepRunsDecodedCommand
  refine ⟨fun s p released pending => ⟨fun empty => ?_, fun rest => step_engine released pending⟩,
    fun s w i rest released idle decoded bus => ?_, fun s nbits w i decoded => ?_⟩
  · rw [step_of_empty empty, completion_pending released pending]
  · refine ⟨_, step_issue released idle bus, ?_⟩
    rw [issue_legal decoded]
    exact ⟨rfl, rfl, rfl, rfl, step_engine (p := s.latch i) released rfl rfl⟩
  · rw [decodeTableWord] at decoded
    have placed : s.withFetchWord nbits w =
        (issue (BitVec.ofNat 32 (w % 2 ^ nbits))
          { s with pend := none, env := { s.env with resetIn := false } }).withBus (.engine :: s.env.bus) := by
      simp only [State.withFetchWord, decoded]
    rw [placed, issue_legal decoded]
    exact step_engine (p := s.latch i) rfl rfl rfl

/-! ### The end of a run -/

/-- Out of reset, with no assertion to come, a step takes one event off the list; with none left it is a turn of the
sequencer, after which nothing is pending. -/
theorem step_released {s : State} (released : s.env.resetIn = false) (never : Event.assertReset ∉ s.env.bus) :
    ∃ t, step s = .next t ∧ t.env.bus = s.env.bus.tail ∧ t.env.resetIn = false ∧
      (s.env.bus = [] → t.pend = none) := by
  cases hb : s.env.bus with
  | nil =>
    obtain ⟨t, answered, idle, bus, released'⟩ := completion_released released
    exact ⟨t, (step_of_empty hb).trans answered, bus.trans hb, released', fun _ => idle⟩
  | cons e rest =>
    rw [step_of_event hb]
    cases access : e.isAccess with
    | true =>
      obtain ⟨u, r, answered, accessed⟩ := stepEvent_access (s := s.withBus rest) access released
      have env := accessed.env_eq
      exact ⟨_, answered, by simp [env], by simp [env, released], nofun⟩
    | false =>
      cases e with
      | read | write => cases access
      | engine =>
        obtain ⟨t, answered, -, bus, released'⟩ := completion_released (s := s.withBus rest) released
        exact ⟨t, answered, bus, released', nofun⟩
      | assertReset => simp [hb] at never
      | releaseReset => exact ⟨_, rfl, rfl, rfl, nofun⟩

theorem State.final_iff (s : State) : s.final = true ↔ s.pend = none ∧ ∀ e ∈ s.env.bus, e.isAccess = false := by
  simp [State.final, and_comm]

theorem core_run_next {s t : State} (n : Nat) (answered : step s = .next t) :
    core.run (n + 1) s = core.run n t := by
  simp only [Host.Core.run, core, answered]

/-- Settles O9, by induction on the events to come. -/
theorem pendingCommandCompletes : Obligations.PendingCommandCompletes := by
  unfold Obligations.PendingCommandCompletes
  intro s
  induction hb : s.env.bus generalizing s with
  | nil =>
    intro released never
    obtain ⟨t, answered, bus, -, idle⟩ := step_released released (hb ▸ never)
    have bus' : t.env.bus = [] := by rw [bus, hb, List.tail_nil]
    refine ⟨t, ?_, bus', idle hb, (State.final_iff t).mpr ⟨idle hb, by simp [bus']⟩⟩
    exact core_run_next 0 answered
  | cons e rest ih =>
    intro released never
    obtain ⟨t, answered, bus, released', -⟩ := step_released released (hb ▸ never)
    have bus' : t.env.bus = rest := by rw [bus, hb, List.tail_cons]
    obtain ⟨u, ran, ended⟩ := ih t bus' released' fun later => never (List.mem_cons_of_mem e later)
    exact ⟨u, (core_run_next (rest.length + 1) answered).trans ran, ended⟩

/-- Settles O59: nothing is pending, so turns change nothing; of the reset edges only the assertion changes a
register. -/
theorem endedRunStaysEnded : Obligations.EndedRunStaysEnded := by
  unfold Obligations.EndedRunStaysEnded
  refine fun s => ⟨s.final_iff, fun ended => ?_⟩
  obtain ⟨idle, quiet⟩ := s.final_iff.mp ended
  have ended_of {t : State} (h : t.pend = none) (bus : t.env.bus = s.env.bus.tail) : t.final = true :=
    t.final_iff.mpr ⟨h, fun e mem => quiet e (List.mem_of_mem_tail (bus ▸ mem))⟩
  cases hb : s.env.bus with
  | nil => exact ⟨s, (step_of_empty hb).trans (completion_idle idle), ended, rfl, fun _ => rfl⟩
  | cons e rest =>
    rw [step_of_event hb]
    rw [hb] at ended_of
    have noAccess : e.isAccess = false := quiet e (by simp [hb])
    cases e with
    | read | write => cases noAccess
    | engine => exact ⟨_, completion_idle (s := s.withBus rest) idle, ended_of idle rfl, rfl, fun _ => rfl⟩
    | assertReset => exact ⟨_, rfl, ended_of rfl rfl, rfl, fun other => absurd rfl other⟩
    | releaseReset => exact ⟨_, rfl, ended_of idle rfl, rfl, fun _ => rfl⟩

/-! ### What accesses and steps cannot change -/

/-- Two states that a completion cannot tell apart keep their registers, key file and report the same. -/
theorem Ending.state_congr (i : Instr) {s t : State} (g : t.g = s.g)
    (key : t.key = s.key ∧ t.status.keyValid = s.status.keyValid ∧ t.status.crtValid = s.status.crtValid)
    (o : Ending) :
    (o.state i t).g = (o.state i s).g ∧ (o.state i t).key = (o.state i s).key ∧
      (o.state i t).status.err = (o.state i s).status.err ∧
      (o.state i t).status.errInfo = (o.state i s).status.errInfo ∧
      (o.state i t).status.keyValid = (o.state i s).status.keyValid ∧
      (o.state i t).status.crtValid = (o.state i s).status.crtValid := by
  obtain ⟨key, keyValid, crtValid⟩ := key
  cases o <;> simp [Ending.state, g, key, keyValid, crtValid]

/-- Settles O10: the access leaves all that the completion depends on, so both completions have one end. -/
theorem latchIsUndisturbed : Obligations.LatchIsUndisturbed := by
  unfold Obligations.LatchIsUndisturbed
  intro s t p e pending access soft answered
  obtain ⟨-, u, r, rfl, accessed⟩ := stepEvent_access_next access answered
  obtain ⟨pend, g, cmd⟩ := accessed.pending_eq pending soft
  have key := accessed.key_eq soft
  have raw : (u.respond r).raw = s.raw := by
    funext k
    simp [State.raw, accessed.env_eq]
  refine ⟨pend, g, key.1, cmd, fun a b ended ended' => ?_⟩
  obtain ⟨o, -, state⟩ := exec_ending p.instr pending
  obtain rfl := Host.Outcome.next.inj ((state s (.refl _ s)).symm.trans ended)
  have same : SameInputs p.instr s (u.respond r) := ⟨pend.trans pending.symm, raw, fun _ => key⟩
  obtain rfl := Host.Outcome.next.inj ((state _ same).symm.trans ended')
  exact Ending.state_congr p.instr (t := u.respond r) g key o

/-- Settles O57: an access that breaks the duties is refused or dropped, and nothing else raises a flag. -/
theorem dutifulHostIsNeverFlagged : Obligations.DutifulHostIsNeverFlagged := by
  unfold Obligations.DutifulHostIsNeverFlagged
  intro s t e answered
  cases e with
  | read | write =>
    obtain ⟨-, u, r, rfl, accessed⟩ := stepEvent_access_next rfl answered
    refine ⟨accessed.flags_of_dutiful, fun broken => ?_⟩
    rcases accessed.eq_of_not_dutiful broken with rfl | rfl
    · exact ⟨.inr rfl, rfl, rfl, rfl, rfl, rfl⟩
    · exact ⟨.inl rfl, rfl, rfl, rfl, rfl, rfl⟩
  | engine =>
    refine ⟨fun _ => ?_, nofun⟩
    rcases completion_ending s with ⟨unchanged, -⟩ | ⟨p, o, -, -, -, ended⟩
    · obtain rfl := Host.Outcome.next.inj (unchanged.symm.trans answered)
      exact ⟨id, id⟩
    · obtain rfl := Host.Outcome.next.inj (ended.symm.trans answered)
      rw [o.state_wrBusy, o.state_accErr]
      exact ⟨id, id⟩
  | assertReset =>
    obtain rfl := Host.Outcome.next.inj answered
    exact ⟨fun _ => ⟨nofun, nofun⟩, nofun⟩
  | releaseReset =>
    obtain rfl := Host.Outcome.next.inj answered
    exact ⟨fun _ => ⟨id, id⟩, nofun⟩

/-- A turn that changes the key file completes a derivation or CLRKEY. -/
theorem completion_changes_key {s t : State} (answered : completion s = .next t) (changed : t.key ≠ s.key) :
    ∃ p, s.ready = some p ∧ (p.instr.derivesKey = true ∨ p.instr = .clrkey) := by
  rcases completion_ending s with ⟨unchanged, -⟩ | ⟨p, o, ready, -, ends, ended⟩
  · obtain rfl := Host.Outcome.next.inj (unchanged.symm.trans answered)
    exact absurd rfl changed
  · obtain rfl := Host.Outcome.next.inj (ended.symm.trans answered)
    refine ⟨p, ready, ?_⟩
    by_contra other
    rw [not_or, Bool.not_eq_true] at other
    exact changed (ends.key_eq s other.1 other.2).1

/-- Settles O42: of the events, a turn may complete one of the three commands, and an access must be a soft reset. -/
theorem onlyFourEventsWriteTheKey : Obligations.OnlyFourEventsWriteTheKey := by
  unfold Obligations.OnlyFourEventsWriteTheKey
  constructor
  · intro s t answered changed
    cases hb : s.env.bus with
    | nil =>
      obtain ⟨p, ready, command⟩ := completion_changes_key ((step_of_empty hb).symm.trans answered) changed
      exact .inl ⟨p, ready, command, .inl rfl⟩
    | cons e rest =>
      rw [step_of_event hb] at answered
      cases e with
      | read | write =>
        obtain ⟨-, u, r, rfl, accessed⟩ := stepEvent_access_next rfl answered
        refine .inr ⟨_, rest, rfl, .inl ?_⟩
        by_contra hard
        exact changed (accessed.key_eq (Bool.not_eq_true _ ▸ hard)).1
      | engine =>
        obtain ⟨p, ready, command⟩ := completion_changes_key (s := s.withBus rest) answered changed
        exact .inl ⟨p, ready, command, .inr ⟨rest, rfl⟩⟩
      | assertReset => exact .inr ⟨_, rest, rfl, .inr rfl⟩
      | releaseReset =>
        obtain rfl := Host.Outcome.next.inj answered
        exact absurd rfl changed
  · intro k size v s
    have number := (keyRegOf_eq_none_iff k.number).not.mp (by simp)
    exact hostWrite_readOnly size v s (.inr (.inr (by rw [Reg.toNat_offset_key]; omega)))

/-! ### The interrupt -/

/-- Settles O54, by the value each access, completion and reset gives DONE and IRQ_EN. -/
theorem interruptLevel : Obligations.InterruptLevel := by
  unfold Obligations.InterruptLevel
  refine fun s => ⟨rfl, fun i t answered => ?_, fun w illegal => ?_, fun w legal => ?_, fun v bit => ?_,
    fun v bit => ?_, rfl, rfl, rfl, fun off n v => ⟨fun unmapped => ?_, fun readOnly => ?_⟩⟩
  · obtain ⟨p, o, -, -, rfl⟩ := exec_next_ending answered
    simp [State.irq]
  · rw [issue_illegal illegal, State.irq, Bool.true_and]
  · obtain ⟨i, decoded⟩ := Option.isSome_iff_exists.mp legal
    rw [issue_legal decoded, State.irq, Bool.false_and]
  · have written : hostWrite 0x0C 4 v s = _ := hostWrite_ok (writeReg_status v s)
    rw [written]
    simp [State.irq, Status.clearW1C, bit]
  · have written : hostWrite 0x08 4 v s = _ := hostWrite_ok (writeReg_ctrl_config s bit)
    rw [written]
    rfl
  · have none := (accessAt_eq_none_iff off n).mpr unmapped
    rw [hostRead_refused none, hostWrite_refused none]
    exact ⟨rfl, rfl⟩
  · rw [hostWrite_readOnly n v s readOnly]
    rfl

end Sys2Proof.Machine
end

section
/-! The register map, the byte lanes and the window, settled (20_memory.md R60, R61, R65, R66). -/

namespace Sys2Proof.Machine

/-- Settles O47: each register is found at its own offset, and an offset has a register exactly outside the gaps. -/
theorem registerMapIsExact : Obligations.RegisterMapIsExact := by
  unfold Obligations.RegisterMapIsExact
  refine ⟨regAt_offset .id, regAt_offset .version, regAt_offset .ctrl, regAt_offset .status, regAt_offset .cmd,
    fun i => regAt_offset (.g i), regAt_offset (.key .kp), regAt_offset (.key .kq), regAt_offset (.key .ke),
    regAt_offset (.key .kn), regAt_offset (.key .kphi), regAt_offset (.key .kd), regAt_offset (.key .kdp),
    regAt_offset (.key .kdq), regAt_offset (.key .kqinv), regAt_offset (.key .kpinv),
    fun off => ⟨?_, fun r => offset_of_regAt⟩⟩
  rw [Option.isSome_iff_ne_none, Ne, regAt_eq_none_iff]
  omega

theorem toNat_busLane (v : Word) (k : Nat) : (busLane v k).toNat = v.toNat / 2 ^ (8 * k) % 256 := by
  rw [busLane, BitVec.extractLsb'_toNat, Nat.shiftRight_eq_div_pow]

theorem toNat_ofLanes (b0 b1 b2 b3 : BitVec 8) :
    (ofLanes b0 b1 b2 b3).toNat = b0.toNat + b1.toNat * 2 ^ 8 + b2.toNat * 2 ^ 16 + b3.toNat * 2 ^ 24 := by
  have lane0 : fieldAt 0 b0 = 0 ||| fieldAt 0 b0 := (BitVec.zero_or).symm
  obtain ⟨e0, below0⟩ := toNat_or_fieldAt (w := 0) (pos := 0) b0 (by decide) (by decide)
  obtain ⟨e1, below1⟩ := toNat_or_fieldAt b1 below0 (by decide)
  obtain ⟨e2, below2⟩ := toNat_or_fieldAt b2 below1 (by decide)
  obtain ⟨e3, -⟩ := toNat_or_fieldAt b3 below2 (by decide)
  rw [ofLanes, lane0, e3, e2, e1, e0]
  simp

/-- Settles O55: the lanes are the word's digits to base 256. -/
theorem byteLanesAreLittleEndian : Obligations.ByteLanesAreLittleEndian := by
  unfold Obligations.ByteLanesAreLittleEndian
  refine fun v => ⟨BitVec.eq_of_toNat_eq ?_, fun k _ => toNat_busLane v k⟩
  have word := v.isLt
  simp only [toNat_ofLanes, toNat_busLane]
  omega

theorem windowOffset_inside (off : BitVec 8) : windowOffset (Config.engineBase + off.toNat) = some off := by
  have hoff := off.isLt
  have inside : Config.engineBase ≤ Config.engineBase + off.toNat ∧
      Config.engineBase + off.toNat < Config.engineBase + Config.windowBytes := by
    rw [Config.windowBytes]
    omega
  rw [windowOffset, if_pos inside, Nat.add_sub_cancel_left, BitVec.ofNat_toNat, BitVec.setWidth_eq]

theorem windowOffset_outside {addr : Nat} (outside : addr < Config.engineBase ∨ Config.engineBase + 256 ≤ addr) :
    windowOffset addr = none := by
  have notInside : ¬ (Config.engineBase ≤ addr ∧ addr < Config.engineBase + Config.windowBytes) := by
    rw [Config.windowBytes]
    omega
  rw [windowOffset, if_neg notInside]

/-- Settles O56: an address is the engine's exactly when it has an offset in the window. -/
theorem windowAddresses : Obligations.WindowAddresses := by
  unfold Obligations.WindowAddresses
  refine ⟨Nat.mul_mod_right _ _, fun off n v => ?_, fun addr n v outside => ?_⟩
  · simp only [memRead, memWrite, windowOffset_inside, Option.map_some, and_self]
  · simp only [memRead, memWrite, windowOffset_outside outside, Option.map_none, and_self]

end Sys2Proof.Machine
end
